-- ==== Sys2Proof/Word.lean ====
section
/-! DEFINITION. The words of WMB-CODEC: bytes, 16-bit halves and 32-bit words (00_scope.md R9, R10). -/

namespace Sys2Proof

/-- A byte, 0 to 255 (00_scope.md R10). -/
abbrev Byte := BitVec 8

/-- A 16-bit value: the CRC accumulator, a register address, a register value. -/
abbrev Half := BitVec 16

/-- A 32-bit word: a command word (`CMD_W`), a register of the map (`REG_W`) (00_scope.md R7). -/
abbrev Word := BitVec 32

end Sys2Proof
end

