-- ==== Sys2Proof/Config.lean ====
section
/-! DEFINITION. The constants of the block (00_scope.md R6), its parameters (R7), and the free values: what the
spec leaves unspecified, as constants without a body. -/

namespace Sys2Proof.Config

/-- Capacity in bytes of the receive buffer and of the frame buffer (00_scope.md R7: "A model takes each as an
argument or adopts the default"). DESIGN CHOICE, log 1: the default. -/
def rxCap : Nat := 1024

/-- `W_LEN`, the width of RXLEN, FLEN, FSTART and BUFIDX: ceil(log2(RX_CAP + 1)) (00_scope.md R7; log 1). -/
abbrev wLen : Nat := 11

/-- `POLY` (00_scope.md R6). -/
def poly : Half := 0xA001#16

/-- `INIT` (00_scope.md R6). -/
def crcInit : Half := 0xFFFF#16

/-- `ROUNDS`: shift-and-conditional-XOR rounds per byte (00_scope.md R6). -/
def rounds : Nat := 8

/-- `MIN_FRAME` (00_scope.md R6, 30_encoding.md R82). -/
def minFrame : Nat := 7

/-- `FUNC`: the function code of every request (00_scope.md R6). -/
def func : Byte := 0x03#8

/-- `QTY`: the quantity of registers in every request (00_scope.md R6). -/
def qty : Half := 0x0001#16

/-- `REQ_LEN`: the length of a request frame, and of TXBUF (00_scope.md R6, 10_state.md R29). -/
def reqLen : Nat := 8

/-- `BC_EXPECT`: the byte count a single-register response must carry (00_scope.md R6). -/
def bcExpect : Byte := 2#8

/-- `SLAVE_MIN`: checked by the host, not by the block (00_scope.md R6, 42_frame_encode.md R132). -/
def slaveMin : Nat := 1

/-- `SLAVE_MAX`: checked by the host, not by the block (00_scope.md R6, 42_frame_encode.md R132). -/
def slaveMax : Nat := 247

/-- The register map occupies the byte offsets below this one (10_state.md R37: 0x00 to 0x57). -/
def mapSpan : Nat := 0x58

/-- FREE VALUE (log 8): the byte of the n-th read of RXDATA or FDATA out of range (10_state.md R39 (d): "any value,
which may differ between two reads"). -/
opaque freeByte : Nat → Byte

/-- FREE VALUE (log 7): the byte a command finds at an index of RXBUF that holds none (10_state.md R26, R41). -/
opaque unwrittenRx : Nat → Byte

/-- FREE VALUE (log 7): the byte a command finds at an index of FBUF that holds none (10_state.md R28, R41). -/
opaque unwrittenF : Nat → Byte

end Sys2Proof.Config
end

