-- ==== Sys2Proof/Syntax.lean ====
section
/-! DEFINITION. The commands of the block (30_encoding.md part A), the reasons a word is illegal (R74), and the
lines of the assembler text (part C). -/

namespace Sys2Proof

/-- The eleven commands of 30_encoding.md R72 with their operands (R73). Each operand has exactly the width of its
field, so no term of this type is out of range. -/
inductive Instr where
  /-- CRCINIT (40_crc_engine.md R106). -/
  | crcinit
  /-- CRCUPD `b` (40_crc_engine.md R107). -/
  | crcupd (b : Byte)
  /-- CRCBUF (40_crc_engine.md R108). -/
  | crcbuf
  /-- VERIFY (40_crc_engine.md R109). -/
  | verify
  /-- VALIDATE (43_frame_extract.md R141). -/
  | validate
  /-- RXCLR (41_rx_buffer.md R120). -/
  | rxclr
  /-- RXPUSH `b` (41_rx_buffer.md R121). -/
  | rxpush (b : Byte)
  /-- ENCODE `slave`, `reg` (42_frame_encode.md R131). -/
  | encode (slave : Byte) (reg : Half)
  /-- EXTRACT (43_frame_extract.md R144). -/
  | extract
  /-- DECODE `s`: `true` is `DECODE S`, `false` is `DECODE U` (44_response_decode.md R161). -/
  | decode (sgn : Bool)
  /-- ERRCLR (45_system.md R170). -/
  | errclr
  deriving DecidableEq, Repr

/-- The four word formats of 30_encoding.md R71. -/
inductive Format where
  | n
  | b
  | e
  | s
  deriving DecidableEq, Repr

/-- Why a command word is illegal: the clauses of 30_encoding.md R74. The block does not tell them apart, each raises
ILLCMD (60_exceptions.md R183; log 16). -/
inductive Illegal where
  /-- Clause (a): the opcode is not listed. -/
  | opcode
  /-- Clause (b): format N with bits 23:0 not zero. -/
  | reservedN
  /-- Clause (c): format B with bits 23:8 not zero. -/
  | reservedB
  /-- Clause (d): format S with bits 23:1 not zero. -/
  | reservedS
  deriving DecidableEq, Repr

/-- One row of the match-and-mask table of 30_encoding.md R76. -/
structure OpRow where
  mnemonic : String
  pattern : Word
  mask : Word
  deriving DecidableEq, Repr

/-- A line of assembler text, its numbers as written (30_encoding.md R83, R84) and the pseudo-instructions (R85). -/
inductive AsmLine where
  | crcinit
  | crcupd (b : Int)
  | crcbuf
  | verify
  | validate
  | rxclr
  | rxpush (b : Int)
  | encode (slave reg : Int)
  | extract
  | decodeU
  | decodeS
  | errclr
  /-- `.word w`, for writing illegal words. -/
  | word (w : Int)
  /-- A line with no text, or with a comment only: accepted as no command (DESIGN CHOICE, log 15). -/
  | blank
  /-- A line that starts with `host:`: no command. -/
  | host
  | crcmsg (bs : List Int)
  | rxpushn (bs : List Int)
  | rxload (bs : List Int)
  | compute (bs : List Int)
  | verifyf (bs : List Int)
  | validatef (bs : List Int)
  deriving DecidableEq, Repr

/-- Why the assembler refuses a line (30_encoding.md R83, R84); the reasons' names are the model's (log 15). -/
inductive AsmError where
  /-- The first word of the line is no mnemonic. -/
  | mnemonic
  /-- The mnemonic takes another number of operands. -/
  | operands
  /-- An operand is no number, and for DECODE neither `U` nor `S`. -/
  | number
  /-- An operand is out of range (R84). -/
  | range
  deriving DecidableEq, Repr

end Sys2Proof
end

