-- ==== Sys2Proof/WellFormed.lean ====
section
/-! DEFINITION. The checks on what comes in: command words (30_encoding.md R74), assembler lines (R84) and the host's
bus accesses (20_memory.md R55, R58). An `Instr` needs none: its operands have the widths of their fields (R73). -/

namespace Sys2Proof

/-- The format of an opcode, and which opcodes are listed (30_encoding.md R72). -/
def formatOf (op : Nat) : Option Format :=
  match op with
  | 0x01 => some .n
  | 0x02 => some .b
  | 0x03 => some .n
  | 0x04 => some .n
  | 0x05 => some .n
  | 0x06 => some .n
  | 0x07 => some .b
  | 0x08 => some .e
  | 0x09 => some .n
  | 0x0A => some .s
  | 0x0B => some .n
  | _ => none

/-- The reserved bits of each format are zero (30_encoding.md R71, R74 (b) to (d)). -/
def reservedZero (f : Format) (w : Word) : Bool :=
  match f with
  | .n => w.extractLsb' 0 24 == 0#24
  | .b => w.extractLsb' 8 16 == 0#16
  | .e => true
  | .s => w.extractLsb' 1 23 == 0#23

/-- A command word is legal: its opcode is listed and its reserved bits are zero (30_encoding.md R74). Written from R74
alone, beside the decoder, so that the two can be compared. -/
def wordLegal (w : Word) : Bool :=
  match formatOf (w.extractLsb' 24 8).toNat with
  | none => false
  | some f => reservedZero f w

/-- A byte operand of the assembler is in range (30_encoding.md R84). -/
def asmByte (n : Int) : Bool :=
  decide (0 ≤ n ∧ n ≤ 255)

/-- The assembler accepts the line's operands (30_encoding.md R84). -/
def AsmLine.wellFormed : AsmLine → Bool
  | .crcupd b => asmByte b
  | .rxpush b => asmByte b
  | .encode slave reg => asmByte slave && decide (0 ≤ reg)
  | .word w => decide (0 ≤ w ∧ w < 2 ^ 32)
  | .crcmsg bs => bs.all asmByte
  | .rxpushn bs => bs.all asmByte
  | .rxload bs => bs.all asmByte
  | .compute bs => bs.all asmByte
  | .verifyf bs => bs.all asmByte
  | .validatef bs => bs.all asmByte
  | .crcinit => true
  | .crcbuf => true
  | .verify => true
  | .validate => true
  | .rxclr => true
  | .extract => true
  | .decodeU => true
  | .decodeS => true
  | .errclr => true
  | .blank => true
  | .host => true

/-- A bus access of `size` bytes at byte offset `off` that the spec defines: a whole 32-bit word at a multiple of 4
inside the map (20_memory.md R55, 10_state.md R37). -/
def accessDefined (off size : Nat) : Bool :=
  size == 4 && off % 4 == 0 && decide (off < Config.mapSpan)

end Sys2Proof
end

