-- ==== Sys2Proof/Decode.lean ====
section
/-! DEFINITION. Decoding of command words (30_encoding.md R71 to R76), total, an illegal word rejected by its reason,
and the encoder beside it. -/

namespace Sys2Proof

/-- Bits 31:24, the opcode of every format (30_encoding.md R71). -/
def opField (w : Word) : Byte := w.extractLsb' 24 8

/-- `b = w[7:0]` (30_encoding.md R73). -/
def byteField (w : Word) : Byte := w.extractLsb' 0 8

/-- `slave = w[23:16]` (30_encoding.md R73). -/
def slaveField (w : Word) : Byte := w.extractLsb' 16 8

/-- `reg = w[15:0]` (30_encoding.md R73). -/
def regField (w : Word) : Half := w.extractLsb' 0 16

/-- `s = w[0]` (30_encoding.md R73). -/
def flagField (w : Word) : Bool := w.getLsbD 0

/-- Format N: bits 23:0 are reserved (30_encoding.md R71). -/
def formatN (w : Word) (i : Instr) : Except Illegal Instr :=
  if w.extractLsb' 0 24 = 0#24 then .ok i else .error .reservedN

/-- Format B: bits 23:8 are reserved, bits 7:0 the operand (30_encoding.md R71). -/
def formatB (w : Word) (i : Byte → Instr) : Except Illegal Instr :=
  if w.extractLsb' 8 16 = 0#16 then .ok (i (byteField w)) else .error .reservedB

/-- Format S: bits 23:1 are reserved, bit 0 the operand (30_encoding.md R71). -/
def formatS (w : Word) (i : Bool → Instr) : Except Illegal Instr :=
  if w.extractLsb' 1 23 = 0#23 then .ok (i (flagField w)) else .error .reservedS

/-- The command a word is, or why it is illegal: a function of the word alone (30_encoding.md R72, R74, R76). -/
def decode (w : Word) : Except Illegal Instr :=
  match (opField w).toNat with
  | 0x01 => formatN w .crcinit
  | 0x02 => formatB w .crcupd
  | 0x03 => formatN w .crcbuf
  | 0x04 => formatN w .verify
  | 0x05 => formatN w .validate
  | 0x06 => formatN w .rxclr
  | 0x07 => formatB w .rxpush
  | 0x08 => .ok (.encode (slaveField w) (regField w))
  | 0x09 => formatN w .extract
  | 0x0A => formatS w .decode
  | 0x0B => formatN w .errclr
  | _ => .error .opcode

/-- A word of format N. -/
def wordN (op : Byte) : Word := op ++ 0#24

/-- A word of format B. -/
def wordB (op b : Byte) : Word := (op ++ 0#16 : BitVec 24) ++ b

/-- A word of format E. -/
def wordE (op slave : Byte) (reg : Half) : Word := (op ++ slave : BitVec 16) ++ reg

/-- A word of format S. -/
def wordS (op : Byte) (s : Bool) : Word := (op ++ 0#23 : BitVec 31) ++ BitVec.ofBool s

/-- The word of a command (30_encoding.md R71, R72). -/
def encode : Instr → Word
  | .crcinit => wordN 0x01#8
  | .crcupd b => wordB 0x02#8 b
  | .crcbuf => wordN 0x03#8
  | .verify => wordN 0x04#8
  | .validate => wordN 0x05#8
  | .rxclr => wordN 0x06#8
  | .rxpush b => wordB 0x07#8 b
  | .encode slave reg => wordE 0x08#8 slave reg
  | .extract => wordN 0x09#8
  | .decode sgn => wordS 0x0A#8 sgn
  | .errclr => wordN 0x0B#8

/-- The match-and-mask form of the encoding (30_encoding.md R76, spec/opcode_table.json). -/
def opTable : List OpRow :=
  [⟨"CRCINIT", 0x01000000#32, 0xFFFFFFFF#32⟩,
   ⟨"CRCUPD", 0x02000000#32, 0xFFFFFF00#32⟩,
   ⟨"CRCBUF", 0x03000000#32, 0xFFFFFFFF#32⟩,
   ⟨"VERIFY", 0x04000000#32, 0xFFFFFFFF#32⟩,
   ⟨"VALIDATE", 0x05000000#32, 0xFFFFFFFF#32⟩,
   ⟨"RXCLR", 0x06000000#32, 0xFFFFFFFF#32⟩,
   ⟨"RXPUSH", 0x07000000#32, 0xFFFFFF00#32⟩,
   ⟨"ENCODE", 0x08000000#32, 0xFF000000#32⟩,
   ⟨"EXTRACT", 0x09000000#32, 0xFFFFFFFF#32⟩,
   ⟨"DECODE", 0x0A000000#32, 0xFFFFFFFE#32⟩,
   ⟨"ERRCLR", 0x0B000000#32, 0xFFFFFFFF#32⟩]

/-- Word `w` is the command of row `r` (30_encoding.md R76: `w & mask = match`). -/
def OpRow.hit (r : OpRow) (w : Word) : Bool := (w &&& r.mask) == r.pattern

/-- The mnemonic of a command (30_encoding.md R72). -/
def mnemonicOf : Instr → String
  | .crcinit => "CRCINIT"
  | .crcupd _ => "CRCUPD"
  | .crcbuf => "CRCBUF"
  | .verify => "VERIFY"
  | .validate => "VALIDATE"
  | .rxclr => "RXCLR"
  | .rxpush _ => "RXPUSH"
  | .encode _ _ => "ENCODE"
  | .extract => "EXTRACT"
  | .decode _ => "DECODE"
  | .errclr => "ERRCLR"

/-- The instruction read from the low `nbits` bits of `w`: a command is one 32-bit word (30_encoding.md R70), so a
longer number is no command. -/
def decodeTableWord (nbits w : Nat) : Option Instr :=
  if w % 2 ^ nbits < 2 ^ 32 then
    match decode (BitVec.ofNat 32 (w % 2 ^ nbits)) with
    | .ok i => some i
    | .error _ => none
  else none

end Sys2Proof
end

