-- ==== Sys2Proof/Machine/State.lean ====
section
/-! DEFINITION. The state of the block (10_state.md R20), the host's side of the register map, the reasons the model
stops, and the state after reset (R41). -/

namespace Sys2Proof.Machine

/-- A register of `W_LEN` bits (00_scope.md R7). -/
abbrev Len := BitVec Config.wLen

/-- A byte memory: index and byte of every listed index, the indices rising (`Memory.wf`). -/
abbrev Memory := List Host.Cell

/-- The three byte memories (20_memory.md R50 (a) to (c)). -/
inductive Space where
  /-- `RXBUF` -/
  | rx
  /-- `FBUF` -/
  | f
  /-- `TXBUF` -/
  | tx
  deriving DecidableEq, Repr

/-- The whole state of the block: the fields of 10_state.md R20 and nothing else. -/
structure Block where
  /-- `CRC` (R21) -/
  crc : Half
  /-- `V` (R22) -/
  v : Bool
  /-- `FOUND` (R23) -/
  found : Bool
  /-- `DOK` (R24) -/
  dok : Bool
  /-- `ERR` (R25) -/
  err : BitVec 4
  /-- `RXBUF`: the bytes at indices below RXLEN (R26; log 6) -/
  rxbuf : Memory
  /-- `RXLEN` (R26) -/
  rxlen : Len
  /-- `FBUF`: the bytes at indices below FLEN (R28; log 6) -/
  fbuf : Memory
  /-- `FLEN` (R28) -/
  flen : Len
  /-- `FSTART` (R28) -/
  fstart : Len
  /-- `BADCNT` (R27) -/
  badcnt : BitVec 32
  /-- `TXBUF` (R29) -/
  txbuf : Memory
  /-- `TXLEN` (R29) -/
  txlen : BitVec 4
  /-- `RSP_ADDR` (R30) -/
  rspAddr : Byte
  /-- `RSP_FUNC` (R30) -/
  rspFunc : Byte
  /-- `RSP_BC` (R30) -/
  rspBc : Byte
  /-- `RAW` (R31) -/
  raw : Half
  /-- `VALUE` (R32) -/
  value : Word
  /-- `BUFIDX` (R33) -/
  bufidx : Len
  deriving DecidableEq, Repr

/-- What the host does to the block (20_memory.md R60, 10_state.md R37, 70_reset_and_hazards.md R200): an access of
`size` bytes at a byte offset from the block's base, or the reset input. -/
inductive HostAction where
  | read (off size : Nat)
  | write (off size : Nat) (data : Word)
  | reset
  deriving DecidableEq, Repr

/-- The host's side, the model's own fields and none of the block's (log 2, log 3, log 8). -/
structure HostPort where
  /-- The actions not yet performed, oldest first. -/
  pending : List HostAction
  /-- The words the reads so far returned, newest first. -/
  replies : List Word
  /-- How many unspecified bytes have been drawn: the index of the next free value. -/
  draws : Nat
  deriving DecidableEq, Repr

/-- The machine: the block and the host's side of it. -/
structure State where
  block : Block
  host : HostPort
  deriving DecidableEq, Repr

/-- The registers of the map (10_state.md R37). -/
inductive MapReg where
  | cmd
  | status
  | crcr
  | rxlenr
  | flenr
  | fstartr
  | badcntr
  | txlenr
  | txb (n : Fin 8)
  | rspr
  | rawr
  | valuer
  | bufidxr
  | rxdata
  | fdata
  deriving DecidableEq, Repr

/-- The block's own faults, which are next states and never a stop (60_exceptions.md R180, R181). -/
inductive FaultCode where
  | illcmd
  | rxovf
  | short
  | noframe
  deriving DecidableEq, Repr

/-- What the scan of EXTRACT returns when it finds a frame: the window and the two parts (43_frame_extract.md R143). -/
structure Extraction where
  start : Nat
  stop : Nat
  frame : List Byte
  remaining : List Byte
  deriving DecidableEq, Repr

/-- Why the model stops with a fault. -/
inductive Fault where
  /-- An access to an index at or above the size of a byte memory, which 20_memory.md R50 says does not exist.
  Raised by CRCBUF, VERIFY, VALIDATE, EXTRACT and RXPUSH when RXLEN is above RX_CAP, and by a read of RXDATA or FDATA
  whose index is below the length and above the capacity: in no state a run reaches (10_state.md R42 (a), (b);
  45_system.md R174). Safe: the model stops where the spec gives nothing (log 9). -/
  | indexOutsideMemory
  deriving DecidableEq, Repr

/-- Why the model gives a step no meaning. -/
inductive Refusal where
  /-- An instruction whose meaning is not written yet, rejected in exec's arm. Safe: the model stops. -/
  | notModelled (mnemonic : String)
  /-- A bus access that is not 32 bits wide (20_memory.md R55: "a model gives it no meaning (refuses it)"), raised by
  a host read or write. Safe: the model stops (log 11). -/
  | notWordAccess
  /-- A bus access at an offset that is not a multiple of 4 (20_memory.md R55), raised by a host read or write.
  Safe: the model stops (log 11). -/
  | misalignedAccess
  /-- A bus access outside offsets 0x00 to 0x57 (20_memory.md R58: "left to the platform"), raised by a host read or
  write. Safe: the model stops (log 11). -/
  | outsideMap
  deriving DecidableEq, Repr

/-- The block after reset (10_state.md R41). -/
def Block.reset : Block where
  crc := 0xFFFF#16
  v := false
  found := false
  dok := false
  err := 0#4
  rxbuf := []
  rxlen := 0#_
  fbuf := []
  flen := 0#_
  fstart := 0#_
  badcnt := 0#32
  txbuf := []
  txlen := 0#4
  rspAddr := 0x00#8
  rspFunc := 0x00#8
  rspBc := 0x00#8
  raw := 0x0000#16
  value := 0x00000000#32
  bufidx := 0#_

/-- The machine right after reset: the block of 10_state.md R41, and a host that has done nothing yet (log 2, 3, 8). -/
def State.reset : State where
  block := Block.reset
  host := ⟨[], [], 0⟩

end Sys2Proof.Machine
end

