-- ==== Sys2Proof/Machine/Ops.lean ====
section
/-! DEFINITION. The named operations over the byte memories and the registers, taking a fault and the return from it. -/

namespace Sys2Proof.Machine

/-! ### Byte memories (20_memory.md R50) -/

/-- How many indices a space has (20_memory.md R50). -/
def Space.size : Space → Nat
  | .rx => Config.rxCap
  | .f => Config.rxCap
  | .tx => Config.reqLen

/-- What an unlisted index reads as: nothing for RXBUF and FBUF, whose bytes reset leaves unspecified; 0x00 for TXBUF
(10_state.md R41; log 6). -/
def Space.unlisted : Space → Option Byte
  | .rx => none
  | .f => none
  | .tx => some 0x00#8

/-- The byte a command finds where a memory holds none: a free value (10_state.md R26, R28; log 7). TXBUF always holds
one. -/
def Space.unwritten : Space → Nat → Byte
  | .rx, a => Config.unwrittenRx a
  | .f, a => Config.unwrittenF a
  | .tx, _ => 0x00#8

/-- The byte listed at an index. -/
def Memory.listed : Memory → Nat → Option Byte
  | [], _ => none
  | (k, b) :: r, a => if k = a then some b else Memory.listed r a

/-- The byte a memory holds at an index, if it holds one there. -/
def Memory.read (sp : Space) (m : Memory) (a : Nat) : Option Byte :=
  (Memory.listed m a).or sp.unlisted

/-- `MemRead(S, a, 1)` (00_scope.md R11): the byte at an index of a memory. -/
def Memory.byteAt (sp : Space) (m : Memory) (a : Nat) : Byte :=
  (Memory.read sp m a).getD (sp.unwritten a)

/-- List a byte at an index, keeping the indices rising. -/
def Memory.list : Memory → Nat → Byte → Memory
  | [], a, b => [(a, b)]
  | (k, c) :: r, a, b =>
    if a < k then (a, b) :: (k, c) :: r
    else if a = k then (a, b) :: r
    else (k, c) :: Memory.list r a b

/-- Take an index off the list. -/
def Memory.unlist (m : Memory) (a : Nat) : Memory :=
  m.filter (fun c => c.1 ≠ a)

/-- `MemWrite(S, a, 1, b)` (00_scope.md R11). A byte equal to what an unlisted index reads as is not listed, so that
equal memories are equal lists. -/
def Memory.write (sp : Space) (m : Memory) (a : Nat) (b : Byte) : Memory :=
  if sp.unlisted = some b then Memory.unlist m a else Memory.list m a b

/-- `S[a : a + len bs] <- bs`: one byte after the other, the first at index `a` (20_memory.md R51). -/
def Memory.writeSeq (sp : Space) (m : Memory) (a : Nat) : List Byte → Memory
  | [] => m
  | b :: bs => Memory.writeSeq sp (Memory.write sp m a b) (a + 1) bs

/-- The memory whose bytes are `bs`, from index 0 on: what RXBUF and FBUF hold when their length is that of `bs`, the
bytes at and above it being no part of the state (10_state.md R26, R28; log 6). -/
def Memory.holding (sp : Space) (bs : List Byte) : Memory :=
  Memory.writeSeq sp [] 0 bs

/-- The canonical form: indices rising and inside the memory, and no entry equal to what an unlisted index reads as. -/
abbrev Memory.wf (sp : Space) (m : Memory) : Prop :=
  m.Pairwise (fun x y => x.1 < y.1) ∧ ∀ c ∈ m, c.1 < sp.size ∧ sp.unlisted ≠ some c.2

/-- `S[0:n]`, the first `n` bytes of a memory; an index at or above its size does not exist (20_memory.md R50; log 9). -/
def readSeq (sp : Space) (m : Memory) (n : Nat) : Except Fault (List Byte) :=
  if n ≤ sp.size then .ok ((List.range n).map (Memory.byteAt sp m)) else .error .indexOutsideMemory

/-- One byte of a memory, at an index that exists (20_memory.md R50; log 9). -/
def readAt (sp : Space) (m : Memory) (a : Nat) : Except Fault Byte :=
  if a < sp.size then .ok (Memory.byteAt sp m a) else .error .indexOutsideMemory

/-- A write of one byte, at an index that exists (20_memory.md R50; log 9). -/
def writeAt (sp : Space) (m : Memory) (a : Nat) (b : Byte) : Except Fault Memory :=
  if a < sp.size then .ok (Memory.write sp m a b) else .error .indexOutsideMemory

/-- Go on with the result of an access, or stop with its fault. -/
def access {α : Type} (x : Except Fault α) (k : α → Host.Outcome State Fault Refusal) :
    Host.Outcome State Fault Refusal :=
  match x with
  | .ok a => k a
  | .error f => .fault f

/-! ### Registers: each write of 10_state.md R20's table, by what is written together -/

/-- `CRC <- c` (10_state.md R21). -/
def Block.setCrc (b : Block) (c : Half) : Block := { b with crc := c }

/-- `V <- x` (10_state.md R22). -/
def Block.setV (b : Block) (x : Bool) : Block := { b with v := x }

/-- `ERR <- e` (10_state.md R25). -/
def Block.setErr (b : Block) (e : BitVec 4) : Block := { b with err := e }

/-- The receive buffer and its length (10_state.md R26). -/
def Block.setRx (b : Block) (m : Memory) (n : Len) : Block := { b with rxbuf := m, rxlen := n }

/-- The outcome of a scan: FOUND, the frame buffer, FLEN and FSTART (10_state.md R23, R28). -/
def Block.setFrame (b : Block) (x : Bool) (m : Memory) (n start : Len) : Block :=
  { b with found := x, fbuf := m, flen := n, fstart := start }

/-- `BADCNT <- n` (10_state.md R27). -/
def Block.setBadcnt (b : Block) (n : BitVec 32) : Block := { b with badcnt := n }

/-- The request buffer and its length (10_state.md R29). -/
def Block.setTx (b : Block) (m : Memory) (n : BitVec 4) : Block := { b with txbuf := m, txlen := n }

/-- The header of the frame decoded (10_state.md R30). -/
def Block.setRsp (b : Block) (addr func bc : Byte) : Block := { b with rspAddr := addr, rspFunc := func, rspBc := bc }

/-- `DOK <- x` (10_state.md R24). -/
def Block.setDok (b : Block) (x : Bool) : Block := { b with dok := x }

/-- The value decoded (10_state.md R31, R32). -/
def Block.setValue (b : Block) (r : Half) (w : Word) : Block := { b with raw := r, value := w }

/-- `BUFIDX <- n` (10_state.md R33). -/
def Block.setBufidx (b : Block) (n : Len) : Block := { b with bufidx := n }

/-- The machine with another block; the host's side is as before. -/
def State.setBlock (s : State) (b : Block) : State := { s with block := b }

/-- The machine with another host side; the block is as before. -/
def State.setHost (s : State) (h : HostPort) : State := { s with host := h }

/-! ### Taking a fault, and the return from it -/

/-- The code of a fault (60_exceptions.md R181). -/
def FaultCode.code : FaultCode → BitVec 4
  | .illcmd => 1#4
  | .rxovf => 2#4
  | .short => 3#4
  | .noframe => 4#4

/-- Fault entry: `ERR <- k` if `ERR = 0`, and nothing else is written (60_exceptions.md R180, R190). -/
def enterFault (s : State) (f : FaultCode) : State :=
  if s.block.err = 0#4 then s.setBlock (s.block.setErr f.code) else s

/-- `raise f` (00_scope.md R11): the command ends with the fault, and the block goes on (60_exceptions.md R180). -/
def raise (s : State) (f : FaultCode) : Host.Outcome State Fault Refusal :=
  .next (enterFault s f)

/-- Fault return: `ERR <- 0`, nothing else restored (60_exceptions.md R191). -/
def leaveFault (s : State) : State :=
  s.setBlock (s.block.setErr 0#4)

end Sys2Proof.Machine
end

