-- ==== Sys2Proof/Machine/Operands.lean ====
section
/-! DEFINITION. The forms of a command's operands: byte sequences and their slices (00_scope.md R10), the implicit
sources RX and F (20_memory.md R50), the extensions (00_scope.md R11) and the splitting and joining of 16-bit fields
(20_memory.md R52, R53). -/

namespace Sys2Proof.Machine

/-- `B[a:b]`, half open (00_scope.md R10). -/
def slice (bs : List Byte) (a b : Nat) : List Byte := (bs.drop a).take (b - a)

/-- A length as a register of `W_LEN` bits; it fits by 00_scope.md R7. -/
def lenOf (n : Nat) : Len := BitVec.ofNat Config.wLen n

/-- `crc_lo(c) = c[7:0]` (40_crc_engine.md R103). -/
def crcLo (c : Half) : Byte := c.extractLsb' 0 8

/-- `crc_hi(c) = c[15:8]` (40_crc_engine.md R103). -/
def crcHi (c : Half) : Byte := c.extractLsb' 8 8

/-- The two bytes of a 16-bit field of a frame, high byte first (20_memory.md R53). -/
def bigEndian (h : Half) : List Byte := [h.extractLsb' 8 8, h.extractLsb' 0 8]

/-- `hi || lo`: a 16-bit field of a frame read high byte first (20_memory.md R53). -/
def joinBytes (hi lo : Byte) : Half := hi ++ lo

/-- `sext_32` for a signed reading, `zext_32` for an unsigned one (00_scope.md R11, 44_response_decode.md R161). -/
def extend32 (sgn : Bool) (r : Half) : Word := if sgn then r.signExtend 32 else r.setWidth 32

/-- Byte `i` of RXBUF. -/
def Block.rxByte (b : Block) (i : Nat) : Byte := Memory.byteAt .rx b.rxbuf i

/-- Byte `i` of FBUF. -/
def Block.fByte (b : Block) (i : Nat) : Byte := Memory.byteAt .f b.fbuf i

/-- Byte `i` of TXBUF. -/
def Block.txByte (b : Block) (i : Nat) : Byte := Memory.byteAt .tx b.txbuf i

/-- The sequence `RX = RXBUF[0:RXLEN]` (10_state.md R26). -/
def Block.rx (b : Block) : List Byte := (List.range b.rxlen.toNat).map b.rxByte

/-- The sequence `F = FBUF[0:FLEN]` (10_state.md R28). -/
def Block.frame (b : Block) : List Byte := (List.range b.flen.toNat).map b.fByte

/-- `TXBUF[0:8]` (10_state.md R29). -/
def Block.tx (b : Block) : List Byte := (List.range Config.reqLen).map b.txByte

/-- Go on with RX, the implicit source of CRCBUF, VERIFY, VALIDATE and EXTRACT (20_memory.md R50 (a)). -/
def withRx (s : State) (k : List Byte → Host.Outcome State Fault Refusal) : Host.Outcome State Fault Refusal :=
  access (readSeq .rx s.block.rxbuf s.block.rxlen.toNat) k

end Sys2Proof.Machine
end

