-- ==== Sys2Proof/Machine/Flags.lean ====
section
/-! DEFINITION. The three result flags, results of whole operations and not condition codes (45_system.md R172), and
the STATUS register that shows them. -/

namespace Sys2Proof.Machine

/-- The last two bytes of a sequence are the checksum `c`, low byte first: V after VERIFY, and after VALIDATE on a
sequence of 7 bytes or more (40_crc_engine.md R104, R109, 43_frame_extract.md R141). -/
def checksumMatches (bs : List Byte) (c : Half) : Bool :=
  bs[bs.length - 2]? == some (crcLo c) && bs[bs.length - 1]? == some (crcHi c)

/-- DOK: the byte count is the one a single-register response carries (44_response_decode.md R161). -/
def byteCountOk (bc : Byte) : Bool := bc == Config.bcExpect

/-- BUSY reads 0 at every point where the host may act (10_state.md R34; log 10). -/
def busy : Bool := false

/-- The word STATUS reads as: BUSY, V, FOUND, DOK in bits 0 to 3, ERR in bits 7:4 (10_state.md R38). -/
def statusWord (b : Block) : Word :=
  (BitVec.ofBool busy).setWidth 32 ||| ((BitVec.ofBool b.v).setWidth 32 <<< 1) |||
    ((BitVec.ofBool b.found).setWidth 32 <<< 2) ||| ((BitVec.ofBool b.dok).setWidth 32 <<< 3) |||
    (b.err.setWidth 32 <<< 4)

end Sys2Proof.Machine
end

