-- ==== Sys2Proof/Machine/CrcEngine.lean ====
section
/-! DEFINITION. The CRC engine: its functions and the commands CRCINIT, CRCUPD, CRCBUF, VERIFY (40_crc_engine.md). -/

namespace Sys2Proof.Machine

/-- `crc_bit(c)`: one shift-and-conditional-XOR round (40_crc_engine.md R100). -/
def crcBit (c : Half) : Half :=
  if c.getLsbD 0 then (c >>> 1) ^^^ Config.poly else c >>> 1

/-- `n` rounds in succession. -/
def crcRounds : Nat → Half → Half
  | 0, c => c
  | n + 1, c => crcRounds n (crcBit c)

/-- `crc_byte(c, b)`: the byte enters bits 7:0 by exclusive or, then eight rounds (40_crc_engine.md R101). -/
def crcByte (c : Half) (b : Byte) : Half :=
  crcRounds Config.rounds (c ^^^ b.setWidth 16)

/-- The accumulator after the bytes of a sequence, in index order, starting from `c` (40_crc_engine.md R102). -/
def crcFrom (c : Half) (bs : List Byte) : Half := bs.foldl crcByte c

/-- `crc16(B)`, the source's `compute` (40_crc_engine.md R102). -/
def crc16 (bs : List Byte) : Half := crcFrom Config.crcInit bs

/-- The "2-byte checksum", low byte first (40_crc_engine.md R103). -/
def checksum (bs : List Byte) : List Byte := [crcLo (crc16 bs), crcHi (crc16 bs)]

/-- The checksum recomputed over all bytes but the last two (40_crc_engine.md R104). -/
def bodyCrc (bs : List Byte) : Half := crc16 (bs.take (bs.length - 2))

/-- `verify(F)`; no value below 2 bytes (40_crc_engine.md R104; log 13). -/
def verify (bs : List Byte) : Option Bool :=
  if bs.length < 2 then none else some (checksumMatches bs (bodyCrc bs))

/-- `verify(F)` is true: the test of a candidate window (43_frame_extract.md R143). -/
def passes (bs : List Byte) : Bool := verify bs == some true

/-- The table entry `Tab[l]`: eight rounds on `zext_16(l)` (40_crc_engine.md R105). -/
def crcTab (l : Byte) : Half := crcRounds Config.rounds (l.setWidth 16)

/-- CRCINIT: `CRC <- 0xFFFF` (40_crc_engine.md R106). -/
def execCrcinit (s : State) : Host.Outcome State Fault Refusal :=
  .next (s.setBlock (s.block.setCrc Config.crcInit))

/-- CRCUPD `b`: `CRC <- crc_byte(CRC, b)` (40_crc_engine.md R107). -/
def execCrcupd (b : Byte) (s : State) : Host.Outcome State Fault Refusal :=
  .next (s.setBlock (s.block.setCrc (crcByte s.block.crc b)))

/-- CRCBUF: `CRC <- crc16(RX)` (40_crc_engine.md R108). -/
def execCrcbuf (s : State) : Host.Outcome State Fault Refusal :=
  withRx s fun bs => .next (s.setBlock (s.block.setCrc (crc16 bs)))

/-- VERIFY: faults SHORT under 2 bytes, else V is `verify(RX)` and CRC the recomputed checksum (40_crc_engine.md R109). -/
def execVerify (s : State) : Host.Outcome State Fault Refusal :=
  if s.block.rxlen.toNat < 2 then raise s .short
  else withRx s fun bs =>
    .next (s.setBlock ((s.block.setCrc (bodyCrc bs)).setV (checksumMatches bs (bodyCrc bs))))

end Sys2Proof.Machine
end

