-- ==== Sys2Proof/Machine/FrameEncode.lean ====
section
/-! DEFINITION. The request encoder: `encode_read_request` and the command ENCODE (42_frame_encode.md). -/

namespace Sys2Proof.Machine

/-- The six bytes of a request before its checksum (42_frame_encode.md R130, 30_encoding.md R79). -/
def requestBody (slave : Byte) (reg : Half) : List Byte :=
  [slave, Config.func] ++ bigEndian reg ++ bigEndian Config.qty

/-- `encode_read_request(slave, reg)` (42_frame_encode.md R130). -/
def encodeReadRequest (slave : Byte) (reg : Half) : List Byte :=
  requestBody slave reg ++ checksum (requestBody slave reg)

/-- ENCODE `slave`, `reg`: `TXBUF[0:8] <- encode_read_request(slave, reg); TXLEN <- 8` (42_frame_encode.md R131). -/
def execEncode (slave : Byte) (reg : Half) (s : State) : Host.Outcome State Fault Refusal :=
  .next (s.setBlock (s.block.setTx (Memory.writeSeq .tx s.block.txbuf 0 (encodeReadRequest slave reg)) 8#4))

end Sys2Proof.Machine
end

