-- ==== Sys2Proof/Machine/RxBuffer.lean ====
section
/-! DEFINITION. The receive buffer commands RXCLR and RXPUSH (41_rx_buffer.md). -/

namespace Sys2Proof.Machine

/-- RXCLR: `RXLEN <- 0`; the bytes stop being part of the state (41_rx_buffer.md R120, 10_state.md R26; log 6). -/
def execRxclr (s : State) : Host.Outcome State Fault Refusal :=
  .next (s.setBlock (s.block.setRx (Memory.holding .rx []) (lenOf 0)))

/-- RXPUSH `b`: faults RXOVF when full, else the byte goes to index RXLEN and RXLEN grows by one (41_rx_buffer.md R121). -/
def execRxpush (b : Byte) (s : State) : Host.Outcome State Fault Refusal :=
  if s.block.rxlen.toNat = Config.rxCap then raise s .rxovf
  else access (writeAt .rx s.block.rxbuf s.block.rxlen.toNat b) fun m =>
    .next (s.setBlock (s.block.setRx m (s.block.rxlen + lenOf 1)))

end Sys2Proof.Machine
end

