-- ==== Sys2Proof/Machine/FrameExtract.lean ====
section
/-! DEFINITION. Frame validation and extraction: `validate_frame`, `windows`, `extract_frame`, the commands VALIDATE and
EXTRACT, and for comparison only the length-major order (43_frame_extract.md). -/

namespace Sys2Proof.Machine

/-- `validate_frame(F)`, defined for every length (43_frame_extract.md R140). -/
def validateFrame (bs : List Byte) : Bool :=
  decide (Config.minFrame ≤ bs.length) && passes bs

/-- `windows(L)`: the starts in order, and for each start the ends in order, from 7 bytes on (43_frame_extract.md R142). -/
def windows (len : Nat) : List (Nat × Nat) :=
  (List.range (len + 1 - Config.minFrame)).flatMap fun s =>
    (List.range (len + 1 - Config.minFrame - s)).map fun k => (s, s + Config.minFrame + k)

/-- The first window of a list that passes `verify`, and how many failed before it (43_frame_extract.md R143). -/
def scan (bs : List Byte) : List (Nat × Nat) → Option (Nat × Nat) × Nat
  | [] => (none, 0)
  | (s, e) :: ws =>
    if passes (slice bs s e) then (some (s, e), 0)
    else ((scan bs ws).1, (scan bs ws).2 + 1)

/-- What a window of a buffer returns: the frame and the suffix after it; the bytes before it are in neither
(43_frame_extract.md R143). -/
def cutAt (bs : List Byte) (w : Nat × Nat) : Extraction where
  start := w.1
  stop := w.2
  frame := slice bs w.1 w.2
  remaining := bs.drop w.2

/-- `extract_frame(B)` and the count `bad`, in the order of `windows` (43_frame_extract.md R143). -/
def extractFrame (bs : List Byte) : Option Extraction × Nat :=
  ((scan bs (windows bs.length)).1.map (cutAt bs), (scan bs (windows bs.length)).2)

/-- The length-major order: all windows of 7 bytes, then all of 8, each by start (43_frame_extract.md R151: "the block
does not implement it"). -/
def windowsLengthMajor (len : Nat) : List (Nat × Nat) :=
  (List.range (len + 1 - Config.minFrame)).flatMap fun k =>
    (List.range (len + 1 - Config.minFrame - k)).map fun s => (s, s + Config.minFrame + k)

/-- What the scan would return in the length-major order; no command uses it (43_frame_extract.md R151). -/
def extractLengthMajor (bs : List Byte) : Option Extraction × Nat :=
  ((scan bs (windowsLengthMajor bs.length)).1.map (cutAt bs), (scan bs (windowsLengthMajor bs.length)).2)

/-- VALIDATE: below 7 bytes `V <- 0` and nothing else; else V and CRC as VERIFY (43_frame_extract.md R141). -/
def execValidate (s : State) : Host.Outcome State Fault Refusal :=
  if s.block.rxlen.toNat < Config.minFrame then .next (s.setBlock (s.block.setV false))
  else withRx s fun bs =>
    .next (s.setBlock ((s.block.setCrc (bodyCrc bs)).setV (checksumMatches bs (bodyCrc bs))))

/-- What EXTRACT writes (43_frame_extract.md R144), every source byte being one of `bs`, the buffer before the command. -/
def afterScan (b : Block) (r : Option Extraction × Nat) : Block :=
  match r.1 with
  | some x =>
    ((b.setFrame true (Memory.holding .f x.frame) (lenOf x.frame.length) (lenOf x.start)).setRx
      (Memory.holding .rx x.remaining) (lenOf x.remaining.length)).setBadcnt (BitVec.ofNat 32 r.2)
  | none => (b.setFrame false (Memory.holding .f []) (lenOf 0) (lenOf 0)).setBadcnt (BitVec.ofNat 32 r.2)

/-- EXTRACT (43_frame_extract.md R144). -/
def execExtract (s : State) : Host.Outcome State Fault Refusal :=
  withRx s fun bs => .next (s.setBlock (afterScan s.block (extractFrame bs)))

end Sys2Proof.Machine
end

