-- ==== Sys2Proof/Machine/ResponseDecode.lean ====
section
/-! DEFINITION. The response decoder: `decode_response` and the command DECODE (44_response_decode.md). -/

namespace Sys2Proof.Machine

/-- `raw` read with or without sign: values of 32768 and above become `raw - 65536` when signed
(44_response_decode.md R160). -/
def signedValue (sgn : Bool) (raw : Nat) : Int :=
  if sgn = true ∧ 32768 ≤ raw then (raw : Int) - 65536 else (raw : Int)

/-- `decode_response(F, s)` on bytes 2, 3 and 4 of a frame; no other byte counts, nor does the length (44_response_decode.md
R160). No value when the byte count is not 2. R160 defines it for frames of 7 bytes or more only; DESIGN CHOICE (log 17):
below that the model goes by the same bytes where they are there, at 5 and 6 bytes, and gives no value under 5. No command
asks for it there. -/
def decodeResponse (frame : List Byte) (sgn : Bool) : Option Int :=
  match frame with
  | _ :: _ :: bc :: hi :: lo :: _ =>
    if byteCountOk bc then some (signedValue sgn (hi.toNat * 256 + lo.toNat)) else none
  | _ => none

/-- What DECODE writes, given bytes 0 to 4 of the frame (44_response_decode.md R161). -/
def afterDecode (b : Block) (sgn : Bool) (addr func bc hi lo : Byte) : Block :=
  if byteCountOk bc then
    ((b.setRsp addr func bc).setValue (joinBytes hi lo) (extend32 sgn (joinBytes hi lo))).setDok true
  else (b.setRsp addr func bc).setDok false

/-- DECODE `s`: faults NOFRAME when no frame is held (44_response_decode.md R161). -/
def execDecode (sgn : Bool) (s : State) : Host.Outcome State Fault Refusal :=
  if s.block.flen = 0#_ then raise s .noframe
  else .next (s.setBlock (afterDecode s.block sgn (s.block.fByte 0) (s.block.fByte 1) (s.block.fByte 2)
    (s.block.fByte 3) (s.block.fByte 4)))

/-- The result a host may take: VALUE as an integer when DOK is 1, absent otherwise (10_state.md R24, R32,
44_response_decode.md R164). -/
def resultOf (b : Block) : Option Int :=
  if b.dok then some b.value.toInt else none

end Sys2Proof.Machine
end

