-- ==== Sys2Proof/Machine/System.lean ====
section
/-! DEFINITION. The system command ERRCLR (45_system.md). -/

namespace Sys2Proof.Machine

/-- ERRCLR: `ERR <- 0`, the return from a fault (45_system.md R170, 60_exceptions.md R191). -/
def execErrclr (s : State) : Host.Outcome State Fault Refusal :=
  .next (leaveFault s)

end Sys2Proof.Machine
end

