-- ==== Sys2Proof/Machine/Dispatch.lean ====
section
/-! DEFINITION. One arm per command, in the order of spec/opcode_table.json. -/

namespace Sys2Proof.Machine

def exec (i : Instr) (s : State) : Host.Outcome State Fault Refusal :=
  match i with
  | .crcinit => Sys2Proof.Machine.execCrcinit s
  | .crcupd b => Sys2Proof.Machine.execCrcupd b s
  | .crcbuf => Sys2Proof.Machine.execCrcbuf s
  | .verify => Sys2Proof.Machine.execVerify s
  | .validate => Sys2Proof.Machine.execValidate s
  | .rxclr => Sys2Proof.Machine.execRxclr s
  | .rxpush b => Sys2Proof.Machine.execRxpush b s
  | .encode slave reg => Sys2Proof.Machine.execEncode slave reg s
  | .extract => Sys2Proof.Machine.execExtract s
  | .decode sgn => Sys2Proof.Machine.execDecode sgn s
  | .errclr => Sys2Proof.Machine.execErrclr s

end Sys2Proof.Machine
end

