-- ==== Sys2Proof/Machine/HostPort.lean ====
section
/-! DEFINITION. The register map through which the host acts on the block: what each register reads as, what a write does,
and the reset input (10_state.md R33, R37 to R39, 20_memory.md R55 to R60, 70_reset_and_hazards.md R200, R201). -/

namespace Sys2Proof.Machine

/-- The register at a byte offset (10_state.md R37). -/
def regAt (off : Nat) : Option MapReg :=
  match off with
  | 0x00 => some .cmd
  | 0x04 => some .status
  | 0x08 => some .crcr
  | 0x0C => some .rxlenr
  | 0x10 => some .flenr
  | 0x14 => some .fstartr
  | 0x18 => some .badcntr
  | 0x1C => some .txlenr
  | 0x20 => some (.txb 0)
  | 0x24 => some (.txb 1)
  | 0x28 => some (.txb 2)
  | 0x2C => some (.txb 3)
  | 0x30 => some (.txb 4)
  | 0x34 => some (.txb 5)
  | 0x38 => some (.txb 6)
  | 0x3C => some (.txb 7)
  | 0x40 => some .rspr
  | 0x44 => some .rawr
  | 0x48 => some .valuer
  | 0x4C => some .bufidxr
  | 0x50 => some .rxdata
  | 0x54 => some .fdata
  | _ => none

/-- The read of a register whose byte is unspecified: RXDATA with BUFIDX at or above RXLEN, FDATA with BUFIDX at or above
FLEN (10_state.md R39 (d)). -/
def unspecifiedRead (b : Block) (r : MapReg) : Bool :=
  match r with
  | .rxdata => decide (b.rxlen.toNat ≤ b.bufidx.toNat)
  | .fdata => decide (b.flen.toNat ≤ b.bufidx.toNat)
  | .cmd => false
  | .status => false
  | .crcr => false
  | .rxlenr => false
  | .flenr => false
  | .fstartr => false
  | .badcntr => false
  | .txlenr => false
  | .txb _ => false
  | .rspr => false
  | .rawr => false
  | .valuer => false
  | .bufidxr => false

/-- The word of a read window: the byte of the memory at BUFIDX when it is below the length, the free byte otherwise;
bits 31:8 are zero (10_state.md R37, R39 (d); log 8). -/
def windowWord (sp : Space) (m : Memory) (len idx : Len) (free : Byte) : Except Fault Word :=
  if len.toNat ≤ idx.toNat then .ok (free.setWidth 32)
  else (readAt sp m idx.toNat).map (fun x => x.setWidth 32)

/-- What a register of the map reads as; bits not listed read as 0 (10_state.md R37, R38). -/
def regWord (b : Block) (free : Byte) (r : MapReg) : Except Fault Word :=
  match r with
  | .cmd => .ok 0#32
  | .status => .ok (statusWord b)
  | .crcr => .ok (b.crc.setWidth 32)
  | .rxlenr => .ok (b.rxlen.setWidth 32)
  | .flenr => .ok (b.flen.setWidth 32)
  | .fstartr => .ok (b.fstart.setWidth 32)
  | .badcntr => .ok b.badcnt
  | .txlenr => .ok (b.txlen.setWidth 32)
  | .txb n => .ok ((b.txByte n.val).setWidth 32)
  | .rspr => .ok (b.rspAddr.setWidth 32 ||| (b.rspFunc.setWidth 32 <<< 8) ||| (b.rspBc.setWidth 32 <<< 16))
  | .rawr => .ok (b.raw.setWidth 32)
  | .valuer => .ok b.value
  | .bufidxr => .ok (b.bufidx.setWidth 32)
  | .rxdata => windowWord .rx b.rxbuf b.rxlen b.bufidx free
  | .fdata => windowWord .f b.fbuf b.flen b.bufidx free

/-- Why a bus access has no meaning: not a whole word, not aligned (20_memory.md R55), or outside the map (R58; log 11). -/
def accessProblem (off size : Nat) : Option Refusal :=
  if size ≠ 4 then some .notWordAccess
  else if off % 4 ≠ 0 then some .misalignedAccess
  else if Config.mapSpan ≤ off then some .outsideMap
  else none

/-- The host side after a read that returned `w`; an unspecified read uses up one free value (log 3, log 8). -/
def HostPort.answer (h : HostPort) (w : Word) (drawn : Bool) : HostPort where
  pending := h.pending
  replies := w :: h.replies
  draws := if drawn then h.draws + 1 else h.draws

/-- A read of a register: the word goes to the host and no state of the block changes (10_state.md R39 (b)). -/
def readReg (s : State) (r : MapReg) : Host.Outcome State Fault Refusal :=
  access (regWord s.block (Config.freeByte s.host.draws) r) fun w =>
    .next (s.setHost (s.host.answer w (unspecifiedRead s.block r)))

/-- A read of an offset of the map that holds no register returns 0 (10_state.md R39 (c)). -/
def readNone (s : State) : Host.Outcome State Fault Refusal :=
  .next (s.setHost (s.host.answer 0#32 false))

/-- A command word written to CMD: a legal word is executed, an illegal one raises ILLCMD (30_encoding.md R70, R74,
60_exceptions.md R182, R183). -/
def issue (s : State) (w : Word) : Host.Outcome State Fault Refusal :=
  match decode w with
  | .ok i => exec i s
  | .error _ => raise s .illcmd

/-- Command words written to CMD one after the other (20_memory.md R60). -/
def issueAll (s : State) : List Word → Host.Outcome State Fault Refusal
  | [] => .next s
  | w :: ws =>
    match issue s w with
    | .next t => issueAll t ws
    | .fault f => .fault f
    | .refused r => .refused r

/-- A write of BUFIDXR keeps bits `W_LEN - 1` to 0 (10_state.md R33). -/
def writeBufidx (s : State) (w : Word) : Host.Outcome State Fault Refusal :=
  .next (s.setBlock (s.block.setBufidx (w.setWidth Config.wLen)))

/-- A write of an offset of the map: CMD issues, BUFIDXR stores, every other write is ignored (10_state.md R37, R39 (c)). -/
def writeReg (s : State) (r : Option MapReg) (w : Word) : Host.Outcome State Fault Refusal :=
  match r with
  | some .cmd => issue s w
  | some .bufidxr => writeBufidx s w
  | _ => .next s

/-- The reset input, a transition between commands (10_state.md R41, 70_reset_and_hazards.md R200, R201; log 5). -/
def resetBlock (s : State) : Host.Outcome State Fault Refusal :=
  .next (s.setBlock Block.reset)

/-- The host side once its oldest action is taken off. -/
def HostPort.rest (h : HostPort) (as : List HostAction) : HostPort where
  pending := as
  replies := h.replies
  draws := h.draws

/-- One action of the host (20_memory.md R60). -/
def perform (a : HostAction) (s : State) : Host.Outcome State Fault Refusal :=
  match a with
  | .reset => resetBlock s
  | .read off size =>
    match accessProblem off size with
    | some r => .refused r
    | none =>
      match regAt off with
      | some r => readReg s r
      | none => readNone s
  | .write off size w =>
    match accessProblem off size with
    | some r => .refused r
    | none => writeReg s (regAt off) w

/-- One step of the machine: the oldest action of the host, or, with none pending, the block holds its state
(20_memory.md R60, 60_exceptions.md R196; log 2, log 4). -/
def stepHost (s : State) : Host.Outcome State Fault Refusal :=
  match s.host.pending with
  | [] => .next s
  | a :: as => perform a (s.setHost (s.host.rest as))

/-- The host side with a write of command word `w` to CMD as its very next action (30_encoding.md R70; log 2). -/
def HostPort.issueNext (h : HostPort) (w : Word) : HostPort where
  pending := .write 0x00 4 w :: h.pending
  replies := h.replies
  draws := h.draws

end Sys2Proof.Machine
end

