-- ==== Sys2Proof/Machine/Step.lean ====
section
/-! DEFINITION. The step of the machine. The block fetches nothing (10_state.md R36): what comes next is the host's next
action (20_memory.md R60; log 2). -/

namespace Sys2Proof.Machine

/-- One action of the host is performed (20_memory.md R60). -/
def step (s : State) : Host.Outcome State Fault Refusal := stepHost s

/-- The state whose next step runs the command word made of the low `nbits` bits of `w`: the host's next action is the
write of that word to CMD, before whatever it had pending (10_state.md R36; log 2). -/
def State.withFetchWord (s : State) (nbits w : Nat) : State :=
  s.setHost (s.host.issueNext (BitVec.ofNat 32 (w % 2 ^ nbits)))

end Sys2Proof.Machine
end

