-- ==== Sys2Proof/Machine/Asm.lean ====
section
/-! DEFINITION. The assembler: lines of text to command words (30_encoding.md R83 to R85). The block sees the words only. -/

namespace Sys2Proof.Machine

/-! ### From lines to words (R84, R85) -/

/-- The word of CRCUPD for an operand in range. -/
def crcupdWord (n : Int) : Word := encode (.crcupd (BitVec.ofInt 8 n))

/-- The word of RXPUSH for an operand in range. -/
def rxpushWord (n : Int) : Word := encode (.rxpush (BitVec.ofInt 8 n))

/-- `RXLOAD`: RXCLR, then one RXPUSH for each byte (30_encoding.md R85). -/
def rxloadWords (bs : List Int) : List Word := encode .rxclr :: bs.map rxpushWord

/-- The words a line stands for, its operands being in range; `reg` is kept modulo 65536 (30_encoding.md R84, R85). -/
def expand : AsmLine → List Word
  | .crcinit => [encode .crcinit]
  | .crcupd b => [crcupdWord b]
  | .crcbuf => [encode .crcbuf]
  | .verify => [encode .verify]
  | .validate => [encode .validate]
  | .rxclr => [encode .rxclr]
  | .rxpush b => [rxpushWord b]
  | .encode slave reg => [encode (.encode (BitVec.ofInt 8 slave) (BitVec.ofInt 16 reg))]
  | .extract => [encode .extract]
  | .decodeU => [encode (.decode false)]
  | .decodeS => [encode (.decode true)]
  | .errclr => [encode .errclr]
  | .word w => [BitVec.ofInt 32 w]
  | .blank => []
  | .host => []
  | .crcmsg bs => encode .crcinit :: bs.map crcupdWord
  | .rxpushn bs => bs.map rxpushWord
  | .rxload bs => rxloadWords bs
  | .compute bs => rxloadWords bs ++ [encode .crcbuf]
  | .verifyf bs => rxloadWords bs ++ [encode .verify]
  | .validatef bs => rxloadWords bs ++ [encode .validate]

/-- Assemble a line, refusing operands out of range (30_encoding.md R84). -/
def assemble (l : AsmLine) : Except AsmError (List Word) :=
  if l.wellFormed then .ok (expand l) else .error .range

/-! ### From text to lines (R83) -/

/-- A space or a tab (DESIGN CHOICE, log 15: R83 names no blanks). -/
def isBlank (c : Char) : Bool := c == ' ' || c == '\t'

/-- Without the blanks at both ends. -/
def trim (cs : List Char) : List Char :=
  ((cs.dropWhile isBlank).reverse.dropWhile isBlank).reverse

/-- The pieces between the separators. -/
def pieces (sep : Char) : List Char → List (List Char)
  | [] => [[]]
  | c :: r =>
    if c = sep then [] :: pieces sep r
    else match pieces sep r with
      | [] => [[c]]
      | p :: ps => (c :: p) :: ps

/-- The decimal digits, each at the index of its value (30_encoding.md R83). -/
def decimalDigits : List Char := "0123456789".toList

/-- The hexadecimal digits, each at the index of its value (30_encoding.md R83). -/
def hexadecimalDigits : List Char := decimalDigits ++ "ABCDEF".toList

/-- The value of a decimal digit. -/
def decDigit (c : Char) : Option Nat := decimalDigits.idxOf? c

/-- The value of a hexadecimal digit, in either case of letters (DESIGN CHOICE, log 15). -/
def hexDigit (c : Char) : Option Nat := hexadecimalDigits.idxOf? c.toUpper

/-- The number of a run of digits, most significant first, after `acc`. -/
def digits (base : Nat) (digit : Char → Option Nat) : Nat → List Char → Option Nat
  | acc, [] => some acc
  | acc, c :: r =>
    match digit c with
    | some d => digits base digit (acc * base + d) r
    | none => none

/-- A number without sign: decimal, or hexadecimal after `0x` (30_encoding.md R83). DESIGN CHOICE (log 15): leading zeros
are allowed, and `0x` with no digit after it is no number. -/
def natural (cs : List Char) : Option Nat :=
  match cs with
  | [] => none
  | ['0', 'x'] => none
  | '0' :: 'x' :: r => digits 16 hexDigit 0 r
  | _ => digits 10 decDigit 0 cs

/-- A number; the range of a negative one is the assembler's concern (30_encoding.md R84). DESIGN CHOICE (log 15): the sign
is one `-` directly before the digits. -/
def number (cs : List Char) : Except AsmError Int :=
  match cs with
  | '-' :: r => match natural r with
    | some n => .ok (-(n : Int))
    | none => .error .number
  | _ => match natural cs with
    | some n => .ok (n : Int)
    | none => .error .number

/-- The operands of a line: separated by commas (30_encoding.md R83). DESIGN CHOICE (log 15): blanks around an operand are
dropped, and no text at all is no operand. -/
def operandTexts (cs : List Char) : List (List Char) :=
  if trim cs = [] then [] else (pieces ',' cs).map trim

/-- All operands as numbers. -/
def numbers : List (List Char) → Except AsmError (List Int)
  | [] => .ok []
  | t :: ts =>
    match number t, numbers ts with
    | .ok n, .ok ns => .ok (n :: ns)
    | .error e, _ => .error e
    | .ok _, .error e => .error e

/-- A line whose mnemonic takes no operand. -/
def noOperand (ts : List (List Char)) (l : AsmLine) : Except AsmError AsmLine :=
  if ts = [] then .ok l else .error .operands

/-- A line whose mnemonic takes one number. -/
def oneNumber (ts : List (List Char)) (l : Int → AsmLine) : Except AsmError AsmLine :=
  match numbers ts with
  | .ok [n] => .ok (l n)
  | .ok _ => .error .operands
  | .error e => .error e

/-- A line whose mnemonic takes two numbers. -/
def twoNumbers (ts : List (List Char)) (l : Int → Int → AsmLine) : Except AsmError AsmLine :=
  match numbers ts with
  | .ok [n, m] => .ok (l n m)
  | .ok _ => .error .operands
  | .error e => .error e

/-- A line whose mnemonic takes any number of numbers (30_encoding.md R85; log 15). -/
def manyNumbers (ts : List (List Char)) (l : List Int → AsmLine) : Except AsmError AsmLine :=
  (numbers ts).map l

/-- The operand of DECODE is the letter `U` or `S` (30_encoding.md R83). -/
def decodeLine (ts : List (List Char)) : Except AsmError AsmLine :=
  if ts = [['U']] then .ok .decodeU
  else if ts = [['S']] then .ok .decodeS
  else if ts.length = 1 then .error .number
  else .error .operands

/-- A line from its mnemonic and its operands (30_encoding.md R83, R85). -/
def lineOf (m : List Char) (ts : List (List Char)) : Except AsmError AsmLine :=
  if m = "CRCINIT".toList then noOperand ts .crcinit
  else if m = "CRCUPD".toList then oneNumber ts .crcupd
  else if m = "CRCBUF".toList then noOperand ts .crcbuf
  else if m = "VERIFY".toList then noOperand ts .verify
  else if m = "VALIDATE".toList then noOperand ts .validate
  else if m = "RXCLR".toList then noOperand ts .rxclr
  else if m = "RXPUSH".toList then oneNumber ts .rxpush
  else if m = "ENCODE".toList then twoNumbers ts .encode
  else if m = "EXTRACT".toList then noOperand ts .extract
  else if m = "DECODE".toList then decodeLine ts
  else if m = "ERRCLR".toList then noOperand ts .errclr
  else if m = ".word".toList then oneNumber ts .word
  else if m = "CRCMSG".toList then manyNumbers ts .crcmsg
  else if m = "RXPUSHN".toList then manyNumbers ts .rxpushn
  else if m = "RXLOAD".toList then manyNumbers ts .rxload
  else if m = "COMPUTE".toList then manyNumbers ts .compute
  else if m = "VERIFYF".toList then manyNumbers ts .verifyf
  else if m = "VALIDATEF".toList then manyNumbers ts .validatef
  else .error .mnemonic

/-- One line of text (30_encoding.md R83): `host:` first, then the text before `;`. DESIGN CHOICE (log 15), R83 saying
only "one command per line" and "a line that starts with `host:`": a line with no text, or with a comment only, is accepted
and is no command; blanks at the start of a line, before a mnemonic or before `host:`, are dropped. -/
def parseLine (cs : List Char) : Except AsmError AsmLine :=
  let t := trim cs
  let body := trim (t.takeWhile (fun c => c != ';'))
  if "host:".toList.isPrefixOf t then .ok .host
  else if body = [] then .ok .blank
  else lineOf (body.takeWhile (fun c => !isBlank c)) (operandTexts (body.dropWhile (fun c => !isBlank c)))

/-- The words of a text, line after line; the first refused line refuses the text (DESIGN CHOICE, log 15). -/
def assembleLines : List (List Char) → Except AsmError (List Word)
  | [] => .ok []
  | l :: ls =>
    match parseLine l with
    | .error e => .error e
    | .ok a =>
      match assemble a, assembleLines ls with
      | .ok ws, .ok rest => .ok (ws ++ rest)
      | .error e, _ => .error e
      | .ok _, .error e => .error e

/-- Assemble a text (30_encoding.md R83 to R85); a newline ends a line (DESIGN CHOICE, log 15). -/
def assembleText (text : String) : Except AsmError (List Word) :=
  assembleLines (pieces '\n' text.toList)

end Sys2Proof.Machine
end

