-- ==== Sys2Proof/Safety.lean ====
section
/-! DEFINITION. The terms claims are stated in: the invariant of the block (10_state.md R42), no fault recorded (R25), what
the host owes (42_frame_encode.md R132, 43_frame_extract.md R150), and what two blocks agree on. -/

namespace Sys2Proof.Machine

/-- No fault has been recorded since reset or the last ERRCLR (10_state.md R25, 60_exceptions.md R181). -/
def NoFaultRecorded (b : Block) : Prop := b.err = 0#4

/-- RXLEN is within the receive buffer (10_state.md R42 (a)). -/
def RxInRange (b : Block) : Prop := b.rxlen.toNat ≤ Config.rxCap

/-- The invariant of 10_state.md R42, clause by clause, and that each byte memory is canonical and lists exactly the bytes
that are part of the state (R26, R28; log 6). -/
structure Inv (b : Block) : Prop where
  /-- R42 (a) -/
  rx_le : RxInRange b
  /-- R42 (b) -/
  flen_range : b.flen.toNat = 0 ∨ (Config.minFrame ≤ b.flen.toNat ∧ b.flen.toNat ≤ Config.rxCap)
  /-- R42 (c) -/
  found_iff : b.found = true ↔ Config.minFrame ≤ b.flen.toNat
  /-- R42 (c) -/
  not_found_iff : b.found = false ↔ b.flen.toNat = 0
  /-- R42 (d) -/
  frame_verifies : Config.minFrame ≤ b.flen.toNat → verify b.frame = some true
  /-- R42 (e) -/
  tx : b.txlen.toNat = 0 ∨ (b.txlen.toNat = Config.reqLen ∧ b.txByte 1 = 0x03#8 ∧ b.txByte 4 = 0x00#8 ∧
    b.txByte 5 = 0x01#8 ∧ verify b.tx = some true)
  /-- R42 (f) -/
  err_le : b.err.toNat ≤ 4
  /-- R42 (g) -/
  value_of_raw : b.dok = true → b.value.extractLsb' 0 16 = b.raw ∧
    (b.value.extractLsb' 16 16 = 0x0000#16 ∨ b.value.extractLsb' 16 16 = 0xFFFF#16)
  /-- R42 (h) -/
  fstart_le : b.fstart.toNat + b.flen.toNat ≤ Config.rxCap
  /-- R42 (h) -/
  fstart_zero : b.flen.toNat = 0 → b.fstart.toNat = 0
  /-- RXBUF is canonical and lists exactly the indices below RXLEN (R26; log 6). -/
  rx_wf : Memory.wf .rx b.rxbuf
  rx_listed : b.rxbuf.map Prod.fst = List.range b.rxlen.toNat
  /-- FBUF is canonical and lists exactly the indices below FLEN (R28; log 6). -/
  f_wf : Memory.wf .f b.fbuf
  f_listed : b.fbuf.map Prod.fst = List.range b.flen.toNat
  /-- TXBUF is canonical. -/
  tx_wf : Memory.wf .tx b.txbuf

/-- BADCNT is a number of windows of a buffer of at most RX_CAP bytes (10_state.md R27). -/
def BadcntBounded (b : Block) : Prop :=
  b.badcnt.toNat ≤ (Config.rxCap - 6) * (Config.rxCap - 5) / 2

/-- The registers, flags and memories of 10_state.md R20, by name. -/
inductive Field where
  | crc
  | v
  | found
  | dok
  | err
  | rxbuf
  | rxlen
  | fbuf
  | flen
  | fstart
  | badcnt
  | txbuf
  | txlen
  | rspAddr
  | rspFunc
  | rspBc
  | raw
  | value
  | bufidx
  deriving DecidableEq, Repr

/-- Two blocks hold the same in a field; a memory, byte by byte. -/
def Field.same (f : Field) (b c : Block) : Prop :=
  match f with
  | .crc => c.crc = b.crc
  | .v => c.v = b.v
  | .found => c.found = b.found
  | .dok => c.dok = b.dok
  | .err => c.err = b.err
  | .rxbuf => ∀ a, Memory.read .rx c.rxbuf a = Memory.read .rx b.rxbuf a
  | .rxlen => c.rxlen = b.rxlen
  | .fbuf => ∀ a, Memory.read .f c.fbuf a = Memory.read .f b.fbuf a
  | .flen => c.flen = b.flen
  | .fstart => c.fstart = b.fstart
  | .badcnt => c.badcnt = b.badcnt
  | .txbuf => ∀ a, Memory.read .tx c.txbuf a = Memory.read .tx b.txbuf a
  | .txlen => c.txlen = b.txlen
  | .rspAddr => c.rspAddr = b.rspAddr
  | .rspFunc => c.rspFunc = b.rspFunc
  | .rspBc => c.rspBc = b.rspBc
  | .raw => c.raw = b.raw
  | .value => c.value = b.value
  | .bufidx => c.bufidx = b.bufidx

/-- The two blocks hold the same in every field but those listed. -/
def SameExcept (fs : List Field) (b c : Block) : Prop :=
  ∀ f : Field, f ∉ fs → f.same b c

/-- The commands that write a field when they do not fault: the column "written by" of 10_state.md R20, and one entry that is
the model's own (DEDUCED, log 6): RXCLR under RXBUF, where R20 names RXPUSH and EXTRACT alone, since the model drops the
bytes that RXCLR makes no part of the state. ERR, besides, is written by any faulting command. -/
def writtenBy : Field → List String
  | .crc => ["CRCINIT", "CRCUPD", "CRCBUF", "VERIFY", "VALIDATE"]
  | .v => ["VERIFY", "VALIDATE"]
  | .found => ["EXTRACT"]
  | .dok => ["DECODE"]
  | .err => ["ERRCLR"]
  | .rxbuf => ["RXCLR", "RXPUSH", "EXTRACT"]
  | .rxlen => ["RXCLR", "RXPUSH", "EXTRACT"]
  | .fbuf => ["EXTRACT"]
  | .flen => ["EXTRACT"]
  | .fstart => ["EXTRACT"]
  | .badcnt => ["EXTRACT"]
  | .txbuf => ["ENCODE"]
  | .txlen => ["ENCODE"]
  | .rspAddr => ["DECODE"]
  | .rspFunc => ["DECODE"]
  | .rspBc => ["DECODE"]
  | .raw => ["DECODE"]
  | .value => ["DECODE"]
  | .bufidx => []

/-- The fault a legal command raises in a state (60_exceptions.md R181). -/
def faultOf (i : Instr) (b : Block) : Option FaultCode :=
  match i with
  | .rxpush _ => if b.rxlen.toNat = Config.rxCap then some .rxovf else none
  | .verify => if b.rxlen.toNat < 2 then some .short else none
  | .decode _ => if b.flen.toNat = 0 then some .noframe else none
  | .crcinit => none
  | .crcupd _ => none
  | .crcbuf => none
  | .validate => none
  | .rxclr => none
  | .encode _ _ => none
  | .extract => none
  | .errclr => none

/-- ERR after a fault is raised: the code if none was recorded, the older code otherwise (60_exceptions.md R190). -/
def errAfter (e k : BitVec 4) : BitVec 4 := if e = 0#4 then k else e

/-- A slave address the host may put in a request (42_frame_encode.md R132, 70_reset_and_hazards.md R210). -/
def LegalSlave (slave : Byte) : Prop := Config.slaveMin ≤ slave.toNat ∧ slave.toNat ≤ Config.slaveMax

/-- Window `x` comes before window `y` in the order of the scan: earlier start, or the same start and earlier end
(43_frame_extract.md R142). -/
abbrev Before (x y : Nat × Nat) : Prop := x.1 < y.1 ∨ (x.1 = y.1 ∧ x.2 < y.2)

/-- A candidate window of a buffer of `len` bytes (43_frame_extract.md R142). -/
abbrev IsWindow (len : Nat) (x : Nat × Nat) : Prop := x.1 + Config.minFrame ≤ x.2 ∧ x.2 ≤ len

/-- No window of the buffer that comes before `y` passes `verify`: the premise of 43_frame_extract.md R150 and
70_reset_and_hazards.md R212. -/
def NoEarlierFrame (bs : List Byte) (y : Nat × Nat) : Prop :=
  ∀ x, IsWindow bs.length x → Before x y → verify (slice bs x.1 x.2) ≠ some true

/-- The sequence with bit `k` of byte `i` inverted (40_crc_engine.md R111). -/
def flipBit (bs : List Byte) (i k : Nat) : List Byte :=
  bs.modify i (fun x => x ^^^ (1#8 <<< k))

/-- The scan as the nested loops of block P143 run it (43_frame_extract.md R143): the ends of one start. -/
def endLoop (bs : List Byte) (s : Nat) : List Nat → Nat → Option (Nat × Nat) × Nat
  | [], bad => (none, bad)
  | e :: es, bad => if passes (slice bs s e) then (some (s, e), bad) else endLoop bs s es (bad + 1)

/-- The starts of block P143 (43_frame_extract.md R143). -/
def startLoop (bs : List Byte) : List Nat → Nat → Option (Nat × Nat) × Nat
  | [], bad => (none, bad)
  | s :: ss, bad =>
    match endLoop bs s (List.range' (s + Config.minFrame) (bs.length + 1 - (s + Config.minFrame))) bad with
    | (some w, n) => (some w, n)
    | (none, n) => startLoop bs ss n

/-- Block P143 as a whole (43_frame_extract.md R143). -/
def loopP143 (bs : List Byte) : Option (Nat × Nat) × Nat :=
  if bs.length < Config.minFrame then (none, 0)
  else startLoop bs (List.range (bs.length - 6)) 0

/-- A scan of one start with a running CRC: `c` is the CRC of the bytes from `s` to two before the end, and the window
grows by one byte at a time (70_reset_and_hazards.md R216). -/
def runningEnds (bs : List Byte) (s : Nat) : List Nat → Half → Nat → Option (Nat × Nat) × Nat
  | [], _, bad => (none, bad)
  | e :: es, c, bad =>
    let body := crcByte c (bs.getD (e - 3) 0#8)
    if bs.getD (e - 2) 0#8 = crcLo body ∧ bs.getD (e - 1) 0#8 = crcHi body then (some (s, e), bad)
    else runningEnds bs s es body (bad + 1)

/-- The scan of all starts with a running CRC per start (70_reset_and_hazards.md R216). -/
def runningStarts (bs : List Byte) : List Nat → Nat → Option (Nat × Nat) × Nat
  | [], bad => (none, bad)
  | s :: ss, bad =>
    match runningEnds bs s (List.range' (s + Config.minFrame) (bs.length + 1 - (s + Config.minFrame)))
        (crc16 (slice bs s (s + 4))) bad with
    | (some w, n) => (some w, n)
    | (none, n) => runningStarts bs ss n

/-- The running-CRC scan: one `crc_byte` per window where `extract_frame` recomputes the whole window
(70_reset_and_hazards.md R216). -/
def runningScan (bs : List Byte) : Option (Nat × Nat) × Nat :=
  runningStarts bs (List.range (bs.length - 6)) 0

/-- A command answers a next state in which its fault is recorded and nothing else has changed (60_exceptions.md R180,
R190). -/
def RecordsFault (s : State) (o : Host.Outcome State Fault Refusal) (code : BitVec 4) : Prop :=
  ∃ t, o = .next t ∧ t.block.err = errAfter s.block.err code ∧ SameExcept [.err] s.block t.block ∧ t.host = s.host

/-- Every word of format N with this opcode and a reserved bit set raises ILLCMD (30_encoding.md R74 (b)). -/
def FormatNFaults (op : Nat) : Prop :=
  ∀ (w : Word) (s : State), w.toNat / 2 ^ 24 = op → w.toNat % 2 ^ 24 ≠ 0 → RecordsFault s (issue s w) 1#4

/-- Every word of format B with this opcode and a reserved bit set raises ILLCMD (30_encoding.md R74 (c)). -/
def FormatBFaults (op : Nat) : Prop :=
  ∀ (w : Word) (s : State), w.toNat / 2 ^ 24 = op → w.toNat / 2 ^ 8 % 2 ^ 16 ≠ 0 → RecordsFault s (issue s w) 1#4

/-- Every word of format S with this opcode and a reserved bit set raises ILLCMD (30_encoding.md R74 (d)). -/
def FormatSFaults (op : Nat) : Prop :=
  ∀ (w : Word) (s : State), w.toNat / 2 ^ 24 = op → w.toNat / 2 % 2 ^ 23 ≠ 0 → RecordsFault s (issue s w) 1#4

/-- A read of the word at an offset of the map returns `w`, and neither the block nor what the host has pending changes
(10_state.md R37, R39 (b)). -/
def Reads (s : State) (off : Nat) (w : Word) : Prop :=
  ∃ t, perform (.read off 4) s = .next t ∧ t.block = s.block ∧ t.host.pending = s.host.pending ∧
    t.host.replies = w :: s.host.replies

/-- The machine with the host's remaining actions. -/
def State.withPending (s : State) (as : List HostAction) : State := s.setHost (s.host.rest as)

end Sys2Proof.Machine
end

