-- ==== Sys2Proof/Certificates/Slice0/Obligations.lean ====
section
/-! DEFINITION. The statements about the model, from the numbered rules of spec/. None is about a program. -/

open Sys2Proof Sys2Proof.Machine

/-! ### Encoding (30_encoding.md) -/

/-- 30_encoding.md R71 to R73: every command, with every operand, is read back from its word. -/
def Obligations.DecodeEncodeRoundTrip : Prop :=
  ∀ i : Instr, decode (encode i) = .ok i

/-- 30_encoding.md R76: no two words are one command, so a word that decodes is the word of its command. -/
def Obligations.EncodeDecodeRoundTrip : Prop :=
  ∀ (w : Word) (i : Instr), decode w = .ok i → encode i = w

/-- 30_encoding.md R74: exactly these words are illegal; an illegal word raises ILLCMD and does nothing else; every word
of format E is legal. -/
def Obligations.IllegalWordsRaiseIllcmd : Prop :=
  ∀ w : Word,
    ((∃ e, decode w = .error e) ↔
      (w.toNat / 2 ^ 24 = 0x00 ∨ 0x0C ≤ w.toNat / 2 ^ 24) ∨
      (w.toNat / 2 ^ 24 ∈ [0x01, 0x03, 0x04, 0x05, 0x06, 0x09, 0x0B] ∧ w.toNat % 2 ^ 24 ≠ 0) ∨
      (w.toNat / 2 ^ 24 ∈ [0x02, 0x07] ∧ w.toNat / 2 ^ 8 % 2 ^ 16 ≠ 0) ∨
      (w.toNat / 2 ^ 24 = 0x0A ∧ w.toNat / 2 % 2 ^ 23 ≠ 0)) ∧
    (∀ s, (∃ e, decode w = .error e) → RecordsFault s (issue s w) 1#4) ∧
    (w.toNat / 2 ^ 24 = 0x08 → ∃ i, decode w = .ok i) ∧
    (w = 0x00000000#32 ∨ w = 0xFFFFFFFF#32 → ∃ e, decode w = .error e)

/-- 30_encoding.md R76: a word is the command of a row exactly when it hits the row's match under its mask; the match sets
are disjoint; a word that hits none is illegal. -/
def Obligations.MatchAndMaskDecide : Prop :=
  (∀ (w : Word), ∀ r ∈ opTable, (w &&& r.mask = r.pattern ↔ ∃ i, decode w = .ok i ∧ mnemonicOf i = r.mnemonic)) ∧
  opTable.Pairwise (fun r q => ∀ w : Word, ¬ (w &&& r.mask = r.pattern ∧ w &&& q.mask = q.pattern)) ∧
  (∀ w : Word, (∀ r ∈ opTable, w &&& r.mask ≠ r.pattern) → ∃ e, decode w = .error e)

/-- 30_encoding.md R73: the operands are these numbers of the word, used as they are, whatever their value. -/
def Obligations.OperandsAreFieldsOfTheWord : Prop :=
  (∀ (w : Word) (b : Byte), decode w = .ok (.crcupd b) → b.toNat = w.toNat % 256) ∧
  (∀ (w : Word) (b : Byte), decode w = .ok (.rxpush b) → b.toNat = w.toNat % 256) ∧
  (∀ (w : Word) (slave : Byte) (reg : Half), decode w = .ok (.encode slave reg) →
    slave.toNat = w.toNat / 65536 % 256 ∧ reg.toNat = w.toNat % 65536) ∧
  (∀ (w : Word) (sgn : Bool), decode w = .ok (.decode sgn) → (sgn = true ↔ w.toNat % 2 = 1))

/-- 95_test_vectors.md VW: some words, written out from 30_encoding.md R71 and R72. -/
def Obligations.SampleWordsDecode : Prop :=
  decode 0x01000000#32 = .ok .crcinit ∧
  decode 0x020000FF#32 = .ok (.crcupd 0xFF#8) ∧
  decode 0x05000000#32 = .ok .validate ∧
  decode 0x070000A5#32 = .ok (.rxpush 0xA5#8) ∧
  decode 0x081A000A#32 = .ok (.encode 0x1A#8 0x000A#16) ∧
  decode 0x09000000#32 = .ok .extract ∧
  decode 0x0A000001#32 = .ok (.decode true) ∧
  decode 0x0B000000#32 = .ok .errclr ∧
  decode 0x00000000#32 = .error .opcode ∧
  decode 0x01000001#32 = .error .reservedN ∧
  decode 0x02000100#32 = .error .reservedB ∧
  decode 0x0A000002#32 = .error .reservedS

/-- 30_encoding.md R84: the assembler takes byte operands of 0 to 255 and a register of any size from 0 on, keeps the
register modulo 65536, and refuses every other operand. -/
def Obligations.AssemblerOperandRanges : Prop :=
  ∀ n m : Int,
    assemble (.crcupd n) =
      (if 0 ≤ n ∧ n ≤ 255 then .ok [BitVec.ofInt 32 (0x02000000 + n)] else .error .range) ∧
    assemble (.rxpush n) =
      (if 0 ≤ n ∧ n ≤ 255 then .ok [BitVec.ofInt 32 (0x07000000 + n)] else .error .range) ∧
    assemble (.encode n m) =
      (if (0 ≤ n ∧ n ≤ 255) ∧ 0 ≤ m then .ok [BitVec.ofInt 32 (0x08000000 + n * 65536 + m % 65536)] else .error .range)

/-- 30_encoding.md R85: the six pseudo-instructions are these sequences of words. R85 gives the form without operand for
CRCMSG alone; that the other five take an empty list too is the model's choice (log 15). -/
def Obligations.PseudoInstructionsExpand : Prop :=
  ∀ bs : List Int, (∀ b ∈ bs, 0 ≤ b ∧ b ≤ 255) →
    let upd := bs.map fun b => BitVec.ofInt 32 (0x02000000 + b)
    let push := bs.map fun b => BitVec.ofInt 32 (0x07000000 + b)
    assemble (.crcmsg bs) = .ok (0x01000000#32 :: upd) ∧
    assemble (.rxpushn bs) = .ok push ∧
    assemble (.rxload bs) = .ok (0x06000000#32 :: push) ∧
    assemble (.compute bs) = .ok (0x06000000#32 :: (push ++ [0x03000000#32])) ∧
    assemble (.verifyf bs) = .ok (0x06000000#32 :: (push ++ [0x04000000#32])) ∧
    assemble (.validatef bs) = .ok (0x06000000#32 :: (push ++ [0x05000000#32]))

/-! ### The CRC engine (40_crc_engine.md) -/

/-- 40_crc_engine.md R100: one round, in numbers. -/
def Obligations.CrcRoundShiftsRight : Prop :=
  ∀ c : Half,
    (c.toNat % 2 = 1 → (crcBit c).toNat = (c.toNat / 2) ^^^ 0xA001) ∧
    (c.toNat % 2 = 0 → (crcBit c).toNat = c.toNat / 2)

/-- 40_crc_engine.md R101 to R103: a byte is eight rounds after an exclusive or into the low bits; a sequence is its bytes
in index order from 0xFFFF, with nothing after the last; the checksum is the low byte, then the high byte. -/
def Obligations.CrcOfSequenceByteByByte : Prop :=
  (∀ (c : Half) (b : Byte), crcByte c b = crcBit^[8] (c ^^^ BitVec.ofNat 16 b.toNat)) ∧
  crc16 [] = 0xFFFF#16 ∧
  (∀ (bs : List Byte) (b : Byte), crc16 (bs ++ [b]) = crcByte (crc16 bs) b) ∧
  (∀ c : Half, (crcLo c).toNat = c.toNat % 256 ∧ (crcHi c).toNat = c.toNat / 256) ∧
  (∀ bs : List Byte, checksum bs = [crcLo (crc16 bs), crcHi (crc16 bs)])

/-- 40_crc_engine.md R104: `verify` compares the last two bytes with the recomputed checksum, has no value below two bytes,
and of the two-byte sequences accepts `FF FF` alone. -/
def Obligations.VerifyComparesTrailingBytes : Prop :=
  (∀ (bs : List Byte) (x y : Byte),
    verify (bs ++ [x, y]) = some (decide (x = crcLo (crc16 bs) ∧ y = crcHi (crc16 bs)))) ∧
  (∀ bs : List Byte, bs.length < 2 → verify bs = none) ∧
  (∀ x y : Byte, verify [x, y] = some true ↔ x = 0xFF#8 ∧ y = 0xFF#8)

/-- 40_crc_engine.md R105 (a), (b): the table form, and what the table's entries are like. -/
def Obligations.CrcByteTableForm : Prop :=
  (∀ (c : Half) (b : Byte),
    crcByte c b = (c >>> 8) ^^^ crcTab ((c ^^^ b.setWidth 16).extractLsb' 0 8)) ∧
  crcTab 0x00#8 = 0x0000#16 ∧
  (∀ x y : Byte, crcHi (crcTab x) = crcHi (crcTab y) → x = y)

/-- 40_crc_engine.md R105 (c): a sequence with its checksum leaves no residue. -/
def Obligations.CrcResidueIsZero : Prop :=
  ∀ bs : List Byte,
    crc16 (bs ++ [crcLo (crc16 bs)]) = (crcHi (crc16 bs)).setWidth 16 ∧ crc16 (bs ++ checksum bs) = 0x0000#16

/-- 40_crc_engine.md R105 (d): a frame verifies exactly when its own CRC is zero. -/
def Obligations.VerifyIffResidueZero : Prop :=
  ∀ bs : List Byte, 2 ≤ bs.length → (verify bs = some true ↔ crc16 bs = 0x0000#16)

/-- 40_crc_engine.md R105 (e): appending 0x00 bytes changes nothing. -/
def Obligations.VerifyZeroExtension : Prop :=
  ∀ (bs : List Byte) (n : Nat), 2 ≤ bs.length → verify (bs ++ List.replicate n 0x00#8) = verify bs

/-- 40_crc_engine.md R105 (f): one byte step is one-to-one in the byte and in the accumulator. -/
def Obligations.CrcByteOneToOne : Prop :=
  (∀ (c : Half) (b d : Byte), crcByte c b = crcByte c d → b = d) ∧
  (∀ (c d : Half) (b : Byte), crcByte c b = crcByte d b → c = d)

/-- 40_crc_engine.md R111's example, and that every single-bit flip of every valid frame fails `verify`, the 64 flips of
the example among them. R111 marks the general sentence "from general knowledge, not in source, beyond the one example"; it
follows from R105 (d) and (f). -/
def Obligations.SingleBitFlipsFailVerify : Prop :=
  verify ([0x1A#8, 0x03#8, 0x00#8, 0x0A#8, 0x00#8, 0x01#8] ++
    checksum [0x1A#8, 0x03#8, 0x00#8, 0x0A#8, 0x00#8, 0x01#8]) = some true ∧
  checksum [0x1A#8, 0x03#8, 0x00#8, 0x0A#8, 0x00#8, 0x01#8] = [0xA7#8, 0xE3#8] ∧
  (∀ (bs : List Byte) (i k : Nat), verify bs = some true → i < bs.length → k < 8 →
    verify (flipBit bs i k) = some false)

/-- Where a 0x00 byte leaves the accumulator as it was: at 0, as 40_crc_engine.md R107 says, and at 0xC001, which R107's
remark ("`b = 0x00` still changes `CRC` unless `CRC = 0`") leaves out. -/
def Obligations.ZeroByteFixedPoints : Prop :=
  ∀ c : Half, crcByte c 0x00#8 = c ↔ c = 0x0000#16 ∨ c = 0xC001#16

/-- 40_crc_engine.md R106: CRCINIT. -/
def Obligations.CrcinitLoadsInitialValue : Prop :=
  decode 0x01000000#32 = .ok .crcinit ∧
  (∀ s : State, ∃ t, exec .crcinit s = .next t ∧ t.block.crc = 0xFFFF#16 ∧ SameExcept [.crc] s.block t.block ∧
    t.host = s.host ∧ exec .crcinit t = .next t) ∧
  FormatNFaults 0x01

/-- 40_crc_engine.md R107: CRCUPD. -/
def Obligations.CrcupdFoldsOneByte : Prop :=
  (∀ b : Byte, decode (0x02000000#32 + b.setWidth 32) = .ok (.crcupd b)) ∧
  (∀ (s : State) (b : Byte), ∃ t, exec (.crcupd b) s = .next t ∧ t.block.crc = crcByte s.block.crc b ∧
    SameExcept [.crc] s.block t.block ∧ t.host = s.host) ∧
  FormatBFaults 0x02

/-- 40_crc_engine.md R107, 70_reset_and_hazards.md R209: CRCINIT followed by CRCUPD of each byte computes `crc16`, and
touches nothing but CRC. -/
def Obligations.StreamingCrcIsCrc16 : Prop :=
  ∀ (s : State) (bs : List Byte), ∃ t,
    issueAll s (encode .crcinit :: bs.map fun b => encode (.crcupd b)) = .next t ∧
    t.block.crc = crc16 bs ∧ SameExcept [.crc] s.block t.block ∧ t.host = s.host

/-- 40_crc_engine.md R108: CRCBUF. -/
def Obligations.CrcbufComputesReceiveBuffer : Prop :=
  decode 0x03000000#32 = .ok .crcbuf ∧
  (∀ s : State, RxInRange s.block → ∃ t, exec .crcbuf s = .next t ∧ t.block.crc = crc16 s.block.rx ∧
    (s.block.rxlen.toNat = 0 → t.block.crc = 0xFFFF#16) ∧
    (verify s.block.rx = some true → t.block.crc = 0x0000#16) ∧
    SameExcept [.crc] s.block t.block ∧ t.host = s.host) ∧
  FormatNFaults 0x03

/-- 40_crc_engine.md R109: VERIFY, under 2 bytes and from 2 bytes on. -/
def Obligations.VerifySetsVAndCrc : Prop :=
  decode 0x04000000#32 = .ok .verify ∧
  (∀ s : State, s.block.rxlen.toNat < 2 → RecordsFault s (exec .verify s) 3#4) ∧
  (∀ s : State, RxInRange s.block → 2 ≤ s.block.rxlen.toNat → ∃ t, exec .verify s = .next t ∧
    verify s.block.rx = some t.block.v ∧
    t.block.crc = crc16 (s.block.rx.take (s.block.rxlen.toNat - 2)) ∧
    SameExcept [.v, .crc] s.block t.block ∧ t.host = s.host) ∧
  (∀ (s t : State) (x y : Byte), s.block.rx = [x, y] → exec .verify s = .next t →
    (t.block.v = true ↔ x = 0xFF#8 ∧ y = 0xFF#8)) ∧
  (∀ (s t : State) (bs : List Byte) (x : Byte), verify bs = some true → exec .verify s = .next t →
    (s.block.rx = bs ++ [x] → (t.block.v = true ↔ x = 0x00#8)) ∧ (s.block.rx = x :: bs → t.block.v = false)) ∧
  FormatNFaults 0x04

/-! ### The receive buffer (41_rx_buffer.md) -/

/-- 41_rx_buffer.md R120: RXCLR empties RX and discards no frame. -/
def Obligations.RxclrEmptiesReceiveBuffer : Prop :=
  decode 0x06000000#32 = .ok .rxclr ∧
  (∀ s : State, ∃ t, exec .rxclr s = .next t ∧ t.block.rxlen.toNat = 0 ∧ t.block.rx = [] ∧
    t.block.frame = s.block.frame ∧ SameExcept [.rxbuf, .rxlen] s.block t.block ∧ t.host = s.host) ∧
  FormatNFaults 0x06

/-- 41_rx_buffer.md R121: RXPUSH, with room and without; the byte goes to the index RXLEN held, and every other byte of
RXBUF reads as before. -/
def Obligations.RxpushAppendsOneByte : Prop :=
  (∀ b : Byte, decode (0x07000000#32 + b.setWidth 32) = .ok (.rxpush b)) ∧
  (∀ (s : State) (b : Byte), s.block.rxlen.toNat = Config.rxCap → RecordsFault s (exec (.rxpush b) s) 2#4) ∧
  (∀ (s : State) (b : Byte), s.block.rxlen.toNat < Config.rxCap → ∃ t, exec (.rxpush b) s = .next t ∧
    t.block.rxlen.toNat = s.block.rxlen.toNat + 1 ∧
    Memory.read .rx t.block.rxbuf s.block.rxlen.toNat = some b ∧
    (∀ a, a ≠ s.block.rxlen.toNat → Memory.read .rx t.block.rxbuf a = Memory.read .rx s.block.rxbuf a) ∧
    t.block.rx = s.block.rx ++ [b] ∧
    SameExcept [.rxbuf, .rxlen] s.block t.block ∧ t.host = s.host) ∧
  FormatBFaults 0x07

/-- 41_rx_buffer.md R122, R121: however the stream is cut into chunks, its bytes end up in RX in their order; those that find
the buffer full are dropped, and the first of them records RXOVF. -/
def Obligations.ChunksAppendInOrder : Prop :=
  ∀ (s : State) (as bs : List Byte), RxInRange s.block →
    ∃ t u,
      issueAll s (as.map fun b => encode (.rxpush b)) = .next t ∧
      issueAll t (bs.map fun b => encode (.rxpush b)) = .next u ∧
      issueAll s ((as ++ bs).map fun b => encode (.rxpush b)) = .next u ∧
      u.block.rx = (s.block.rx ++ as ++ bs).take Config.rxCap ∧
      (s.block.rxlen.toNat + as.length + bs.length ≤ Config.rxCap → u.block.err = s.block.err) ∧
      (Config.rxCap < s.block.rxlen.toNat + as.length + bs.length → u.block.err = errAfter s.block.err 2#4) ∧
      SameExcept [.rxbuf, .rxlen, .err] s.block u.block ∧ u.host = s.host

/-! ### The request encoder (42_frame_encode.md) -/

/-- 42_frame_encode.md R130, R131: ENCODE, for every operand; the bytes stored are TXBUF[0] to TXBUF[7]. -/
def Obligations.EncodeBuildsRequest : Prop :=
  (∀ (slave : Byte) (reg : Half),
    decode (0x08000000#32 + slave.setWidth 32 * 65536#32 + reg.setWidth 32) = .ok (.encode slave reg)) ∧
  (∀ (s : State) (slave : Byte) (reg : Half), ∃ t, exec (.encode slave reg) s = .next t ∧
    (∃ lo hi : Byte, t.block.tx = [slave, 0x03#8, BitVec.ofNat 8 (reg.toNat / 256), BitVec.ofNat 8 (reg.toNat % 256),
        0x00#8, 0x01#8, lo, hi] ∧
      [lo, hi] = checksum [slave, 0x03#8, BitVec.ofNat 8 (reg.toNat / 256), BitVec.ofNat 8 (reg.toNat % 256),
        0x00#8, 0x01#8]) ∧
    t.block.tx = encodeReadRequest slave reg ∧
    t.block.txlen.toNat = 8 ∧
    (∀ a, 8 ≤ a → Memory.read .tx t.block.txbuf a = Memory.read .tx s.block.txbuf a) ∧
    SameExcept [.txbuf, .txlen] s.block t.block ∧ t.host = s.host) ∧
  (∀ w : Word, w.toNat / 2 ^ 24 = 0x08 → ∃ slave reg, decode w = .ok (.encode slave reg))

/-- 42_frame_encode.md R133 (a) to (c), and the last sentence of (d) in general: a request is 8 bytes, verifies, determines
its operands, and its first seven bytes verify exactly when its last byte is 0x00. -/
def Obligations.RequestsVerifyAndDiffer : Prop :=
  (∀ (slave : Byte) (reg : Half), (encodeReadRequest slave reg).length = 8 ∧
    verify (encodeReadRequest slave reg) = some true ∧
    (verify ((encodeReadRequest slave reg).take 7) = some true ↔ crcHi (crc16 (requestBody slave reg)) = 0x00#8)) ∧
  (∀ (a b : Byte) (x y : Half), encodeReadRequest a x = encodeReadRequest b y → a = b ∧ x = y) ∧
  encodeReadRequest 0x01#8 0x0021#16 = [0x01#8, 0x03#8, 0x00#8, 0x21#8, 0x00#8, 0x01#8, 0xD4#8, 0x00#8]

/-- 42_frame_encode.md R133 (d): at each slave, exactly 256 register addresses have a request that ends in 0x00. -/
def Obligations.RequestsEndingInZeroAre256 : Prop :=
  ∀ slave : Byte,
    ((List.range 65536).filter fun r => crcHi (crc16 (requestBody slave (BitVec.ofNat 16 r))) = 0x00#8).length = 256

/-! ### Validation and extraction (43_frame_extract.md) -/

/-- 43_frame_extract.md R140: `validate_frame` is the floor of 7 bytes and `verify`. -/
def Obligations.ValidateFrameHasFloor : Prop :=
  ∀ bs : List Byte, (validateFrame bs = true ↔ 7 ≤ bs.length ∧ verify bs = some true) ∧
    (bs.length < 7 → validateFrame bs = false)

/-- 43_frame_extract.md R141: VALIDATE, below 7 bytes and from 7 bytes on. -/
def Obligations.ValidateSetsV : Prop :=
  decode 0x05000000#32 = .ok .validate ∧
  (∀ s : State, RxInRange s.block → ∃ t, exec .validate s = .next t ∧
    t.block.v = validateFrame s.block.rx ∧
    (s.block.rxlen.toNat < 7 → t.block.v = false ∧ t.block.crc = s.block.crc) ∧
    (7 ≤ s.block.rxlen.toNat → t.block.crc = crc16 (s.block.rx.take (s.block.rxlen.toNat - 2))) ∧
    SameExcept [.v, .crc] s.block t.block ∧ t.host = s.host) ∧
  FormatNFaults 0x05

/-- 43_frame_extract.md R142: the windows, their order and their number. -/
def Obligations.WindowsInScanOrder : Prop :=
  ∀ len : Nat,
    (∀ x : Nat × Nat, x ∈ windows len ↔ x.1 + 7 ≤ x.2 ∧ x.2 ≤ len) ∧
    (windows len).Pairwise (fun x y => x.1 < y.1 ∨ (x.1 = y.1 ∧ x.2 < y.2)) ∧
    (len < 7 → windows len = []) ∧
    (7 ≤ len → (windows len).length = (len - 6) * (len - 5) / 2)

/-- 43_frame_extract.md R143: the result is the first window that verifies, with the suffix after it; `none` when no window
does; and `bad` counts the windows before. -/
def Obligations.ExtractFrameTakesFirstWindow : Prop :=
  ∀ bs : List Byte,
    (∀ x, (extractFrame bs).1 = some x →
      IsWindow bs.length (x.start, x.stop) ∧ verify (slice bs x.start x.stop) = some true ∧
      NoEarlierFrame bs (x.start, x.stop) ∧
      x.frame = slice bs x.start x.stop ∧ bs = bs.take x.start ++ x.frame ++ x.remaining ∧
      (extractFrame bs).2 = ((windows bs.length).filter fun y => Before y (x.start, x.stop)).length) ∧
    ((extractFrame bs).1 = none →
      (∀ y, IsWindow bs.length y → verify (slice bs y.1 y.2) ≠ some true) ∧
      (extractFrame bs).2 = (windows bs.length).length) ∧
    (bs.length < 7 → extractFrame bs = (none, 0))

/-- 43_frame_extract.md P143: the nested loops of the pseudocode find the window and the count that the ordered list gives. -/
def Obligations.NestedLoopsEqualScan : Prop :=
  ∀ bs : List Byte, loopP143 bs = scan bs (windows bs.length)

/-- 70_reset_and_hazards.md R216: a running CRC per start offset, extended by one byte per window, gives the same result. -/
def Obligations.RunningCrcScanEqualsScan : Prop :=
  ∀ bs : List Byte, runningScan bs = scan bs (windows bs.length)

/-- 43_frame_extract.md R144: EXTRACT, with a frame and without; every source byte is one from before the command. -/
def Obligations.ExtractMovesFrameAndSuffix : Prop :=
  decode 0x09000000#32 = .ok .extract ∧
  (∀ s : State, RxInRange s.block → ∃ t, exec .extract s = .next t ∧
    t.block.badcnt.toNat = (extractFrame s.block.rx).2 ∧
    (∀ x, (extractFrame s.block.rx).1 = some x →
      t.block.found = true ∧
      t.block.flen.toNat = x.stop - x.start ∧ t.block.fstart.toNat = x.start ∧
      t.block.rxlen.toNat = s.block.rxlen.toNat - x.stop ∧
      (∀ a, a < x.stop - x.start → Memory.read .f t.block.fbuf a = some (s.block.rxByte (x.start + a))) ∧
      (∀ a, a < s.block.rxlen.toNat - x.stop → Memory.read .rx t.block.rxbuf a = some (s.block.rxByte (x.stop + a))) ∧
      t.block.frame = x.frame ∧ t.block.rx = x.remaining) ∧
    ((extractFrame s.block.rx).1 = none →
      t.block.found = false ∧ t.block.flen.toNat = 0 ∧ t.block.fstart.toNat = 0 ∧
      SameExcept [.found, .fbuf, .flen, .fstart, .badcnt] s.block t.block) ∧
    SameExcept [.found, .fbuf, .flen, .fstart, .badcnt, .rxbuf, .rxlen] s.block t.block ∧ t.host = s.host) ∧
  FormatNFaults 0x09

/-- 43_frame_extract.md R145: BADCNT in numbers. -/
def Obligations.BadcntCountsFailedWindows : Prop :=
  ∀ s t : State, RxInRange s.block → exec .extract s = .next t →
    (s.block.rxlen.toNat < 7 → t.block.badcnt.toNat = 0) ∧
    (7 ≤ s.block.rxlen.toNat →
      let n := s.block.rxlen.toNat - 6
      (t.block.found = false → t.block.badcnt.toNat = n * (n + 1) / 2) ∧
      (t.block.found = true → t.block.badcnt.toNat =
        t.block.fstart.toNat * n - t.block.fstart.toNat * (t.block.fstart.toNat - 1) / 2 + (t.block.flen.toNat - 7)))

/-- 43_frame_extract.md R148: the scan depends on the bytes of RX alone. -/
def Obligations.ExtractDependsOnReceiveBufferAlone : Prop :=
  ∀ s u t v : State, RxInRange s.block → u.block.rx = s.block.rx →
    exec .extract s = .next t → exec .extract u = .next v →
      v.block.found = t.block.found ∧ v.block.frame = t.block.frame ∧ v.block.flen = t.block.flen ∧
      v.block.fstart = t.block.fstart ∧ v.block.rx = t.block.rx ∧ v.block.rxlen = t.block.rxlen ∧
      v.block.badcnt = t.block.badcnt

/-- 43_frame_extract.md R149 (c): no buffer has a frame of 8 bytes or more that ends in 0x00 returned from it; and where
such a frame is alone in the buffer, a frame that starts with it and ends before its last byte is returned. -/
def Obligations.TrailingZeroIsLeftBehind : Prop :=
  (∀ (bs : List Byte) (x : Extraction), (extractFrame bs).1 = some x → 8 ≤ x.frame.length →
    x.frame.getLast? ≠ some 0x00#8) ∧
  (∀ bs : List Byte, 7 ≤ bs.length → verify (bs ++ [0x00#8]) = some true →
    ∃ x, (extractFrame (bs ++ [0x00#8])).1 = some x ∧ x.start = 0 ∧ x.stop ≤ bs.length)

/-- 43_frame_extract.md R150: with any junk around it, a request comes back unaltered exactly when no earlier window
verifies; alone, exactly when its last byte is not 0x00, and otherwise its first seven bytes come back. -/
def Obligations.RequestRoundTripRestricted : Prop :=
  (∀ (slave : Byte) (reg : Half) (pre post : List Byte),
    (extractFrame (pre ++ encodeReadRequest slave reg ++ post)).1 =
        some ⟨pre.length, pre.length + 8, encodeReadRequest slave reg, post⟩ ↔
      NoEarlierFrame (pre ++ encodeReadRequest slave reg ++ post) (pre.length, pre.length + 8)) ∧
  (∀ (slave : Byte) (reg : Half), crcHi (crc16 (requestBody slave reg)) ≠ 0x00#8 →
    extractFrame (encodeReadRequest slave reg) = (some ⟨0, 8, encodeReadRequest slave reg, []⟩, 1)) ∧
  (∀ (slave : Byte) (reg : Half), crcHi (crc16 (requestBody slave reg)) = 0x00#8 →
    extractFrame (encodeReadRequest slave reg) =
      (some ⟨0, 7, (encodeReadRequest slave reg).take 7, [0x00#8]⟩, 0))

/-- 43_frame_extract.md R151: on a request echo followed by a response the two orders differ. -/
def Obligations.ScanOrdersDiffer : Prop :=
  let rx : List Byte := [0x01#8, 0x03#8, 0x00#8, 0x00#8, 0x00#8, 0x01#8, 0x84#8, 0x0A#8,
    0x01#8, 0x03#8, 0x02#8, 0x12#8, 0x34#8, 0xB5#8, 0x33#8]
  (extractFrame rx).1.map (fun x => (x.start, x.stop, x.remaining)) =
    some (0, 8, [0x01#8, 0x03#8, 0x02#8, 0x12#8, 0x34#8, 0xB5#8, 0x33#8]) ∧ (extractFrame rx).2 = 1 ∧
  (extractLengthMajor rx).1.map (fun x => (x.start, x.stop, x.remaining)) = some (8, 15, []) ∧
  (extractLengthMajor rx).2 = 8

/-- 92_eei_decisions.md D10: the two orders return the same window, or both none, whenever the buffer has at most one that
verifies. The counts of failed windows may differ (D11), and nothing is said of them. -/
def Obligations.ScanOrdersAgreeOnOneWindow : Prop :=
  ∀ bs : List Byte,
    (∀ x y, IsWindow bs.length x → IsWindow bs.length y → verify (slice bs x.1 x.2) = some true →
      verify (slice bs y.1 y.2) = some true → x = y) →
    (extractLengthMajor bs).1 = (extractFrame bs).1

/-! ### The response decoder (44_response_decode.md) -/

/-- 44_response_decode.md R160: `decode_response` in numbers, for every frame of 7 bytes or more. -/
def Obligations.DecodeResponseReadsTwoBytes : Prop :=
  ∀ (a f bc hi lo : Byte) (rest : List Byte) (sgn : Bool), 2 ≤ rest.length →
    (bc.toNat ≠ 2 → decodeResponse (a :: f :: bc :: hi :: lo :: rest) sgn = none) ∧
    (bc.toNat = 2 → ∃ v : Int, decodeResponse (a :: f :: bc :: hi :: lo :: rest) sgn = some v ∧
      (sgn = false → v = hi.toNat * 256 + lo.toNat ∧ 0 ≤ v ∧ v ≤ 65535) ∧
      (sgn = true → -32768 ≤ v ∧ v ≤ 32767 ∧
        (hi.toNat * 256 + lo.toNat < 32768 → v = hi.toNat * 256 + lo.toNat) ∧
        (32768 ≤ hi.toNat * 256 + lo.toNat → v = (hi.toNat * 256 + lo.toNat : Int) - 65536)))

/-- 44_response_decode.md R161: DECODE, with no frame, with a wrong byte count and with the right one. -/
def Obligations.DecodeLoadsResponseRegisters : Prop :=
  (∀ sgn : Bool, decode (0x0A000000#32 + (BitVec.ofBool sgn).setWidth 32) = .ok (.decode sgn)) ∧
  (∀ (s : State) (sgn : Bool), s.block.flen.toNat = 0 → RecordsFault s (exec (.decode sgn) s) 4#4) ∧
  (∀ (s : State) (sgn : Bool), s.block.flen.toNat ≠ 0 → ∃ t, exec (.decode sgn) s = .next t ∧
    t.block.rspAddr = s.block.fByte 0 ∧ t.block.rspFunc = s.block.fByte 1 ∧ t.block.rspBc = s.block.fByte 2 ∧
    (s.block.fByte 2 ≠ 0x02#8 → t.block.dok = false ∧
      SameExcept [.rspAddr, .rspFunc, .rspBc, .dok] s.block t.block) ∧
    (s.block.fByte 2 = 0x02#8 → t.block.dok = true ∧
      t.block.raw.toNat = (s.block.fByte 3).toNat * 256 + (s.block.fByte 4).toNat ∧
      (sgn = false → t.block.value.toNat = t.block.raw.toNat) ∧
      (sgn = true → t.block.value.toInt = t.block.raw.toInt)) ∧
    (7 ≤ s.block.flen.toNat → resultOf t.block = decodeResponse s.block.frame sgn) ∧
    SameExcept [.rspAddr, .rspFunc, .rspBc, .dok, .raw, .value] s.block t.block ∧ t.host = s.host) ∧
  FormatSFaults 0x0A

/-- 43_frame_extract.md R143, 44_response_decode.md R161: a response for one register that is alone in RX is extracted
whole, and decoded to its value. -/
def Obligations.ResponseAloneDecodes : Prop :=
  ∀ (s : State) (addr func hi lo : Byte) (sgn : Bool),
    s.block.rx = [addr, func, 0x02#8, hi, lo] ++ checksum [addr, func, 0x02#8, hi, lo] →
    ∃ t u, exec .extract s = .next t ∧ exec (.decode sgn) t = .next u ∧
      t.block.found = true ∧ t.block.frame = s.block.rx ∧ t.block.rx = [] ∧ t.block.badcnt.toNat = 0 ∧
      u.block.rspAddr = addr ∧ u.block.rspFunc = func ∧
      resultOf u.block = some (signedValue sgn (hi.toNat * 256 + lo.toNat))

/-! ### Faults and ERRCLR (45_system.md, 60_exceptions.md) -/

/-- 45_system.md R170: ERRCLR, and an ERRCLR word with a reserved bit set, which is none. -/
def Obligations.ErrclrClearsErr : Prop :=
  decode 0x0B000000#32 = .ok .errclr ∧
  (∀ s : State, ∃ t, exec .errclr s = .next t ∧ t.block.err = 0#4 ∧ SameExcept [.err] s.block t.block ∧
    t.host = s.host ∧ (s.block.err = 0#4 → SameExcept [] s.block t.block)) ∧
  FormatNFaults 0x0B ∧
  (∀ (w : Word) (s t : State), w.toNat / 2 ^ 24 = 0x0B → w.toNat % 2 ^ 24 ≠ 0 → issue s w = .next t →
    (s.block.err ≠ 0#4 → t.block.err = s.block.err) ∧ (s.block.err = 0#4 → t.block.err = 1#4))

/-- 60_exceptions.md R180 to R182, R190: the codes; a command or word that faults writes ERR, which takes the code when it
is 0 and keeps the older one otherwise, and nothing else; legality is decided first, from the word alone; and no other
command but ERRCLR changes ERR. -/
def Obligations.FaultsRecordTheFirstCode : Prop :=
  (FaultCode.illcmd.code = 1#4 ∧ FaultCode.rxovf.code = 2#4 ∧ FaultCode.short.code = 3#4 ∧
    FaultCode.noframe.code = 4#4) ∧
  (∀ e k : BitVec 4, (e = 0#4 → errAfter e k = k) ∧ (e ≠ 0#4 → errAfter e k = e)) ∧
  (∀ (s : State) (w : Word), (∃ e, decode w = .error e) → RecordsFault s (issue s w) 1#4) ∧
  (∀ (s : State) (w : Word) (i : Instr), decode w = .ok i → issue s w = exec i s) ∧
  (∀ (i : Instr) (s : State) (k : FaultCode), faultOf i s.block = some k → RecordsFault s (exec i s) k.code) ∧
  (∀ (i : Instr) (s t : State), exec i s = .next t → i ≠ .errclr → t.block.err ≠ s.block.err →
    s.block.err = 0#4 ∧
      ((∃ b, i = .rxpush b ∧ s.block.rxlen.toNat = Config.rxCap ∧ t.block.err = 2#4) ∨
        (i = .verify ∧ s.block.rxlen.toNat < 2 ∧ t.block.err = 3#4) ∨
        (∃ sgn, i = .decode sgn ∧ s.block.flen.toNat = 0 ∧ t.block.err = 4#4)))

/-- 60_exceptions.md R180, R191: whatever ERR holds, a command does what it does with ERR clear. -/
def Obligations.RecordedFaultBlocksNothing : Prop :=
  ∀ (i : Instr) (s t : State) (e : BitVec 4), exec i s = .next t →
    ∃ u, exec i (s.setBlock (s.block.setErr e)) = .next u ∧ SameExcept [.err] t.block u.block ∧ u.host = t.host

/-! ### The command set as a whole (10_state.md, 45_system.md) -/

/-- 10_state.md R20, column "written by": a command writes no field the table does not give it, but that the model lets RXCLR
write RXBUF, where R20 names RXPUSH and EXTRACT alone: it drops the bytes that are no part of the state any more (log 6);
ERR, besides, only when it faults, and then nothing else; BUFIDX and the host's side never. -/
def Obligations.CommandsWriteOnlyTheirFields : Prop :=
  ∀ (i : Instr) (s t : State), exec i s = .next t →
    t.host = s.host ∧
    (∀ f : Field, mnemonicOf i ∉ writtenBy f → (f ≠ .err ∨ faultOf i s.block = none) → f.same s.block t.block) ∧
    (∀ k, faultOf i s.block = some k → SameExcept [.err] s.block t.block)

/-- 45_system.md R171, 70_reset_and_hazards.md R215: every command answers a next state, whatever the flags and ERR hold;
none is refused in any state. -/
def Obligations.EveryCommandAnswers : Prop :=
  (∀ (i : Instr) (s : State), RxInRange s.block → ∃ t, exec i s = .next t) ∧
  (∀ (i : Instr) (s : State) (r : Refusal), exec i s ≠ .refused r)

/-- 10_state.md R42, at reset. -/
def Obligations.ResetMeetsInvariant : Prop :=
  Inv State.reset.block

/-- 10_state.md R42: every step keeps the invariant, from every state that has it. -/
def Obligations.StepKeepsInvariant : Prop :=
  ∀ s t : State, Inv s.block → step s = .next t → Inv t.block

/-- 10_state.md R27: BADCNT never exceeds the number of windows of a full buffer, so it never wraps. -/
def Obligations.StepKeepsBadcntBounded : Prop :=
  ∀ s t : State, RxInRange s.block → BadcntBounded s.block → step s = .next t →
    BadcntBounded t.block ∧ t.block.badcnt.toNat < 2 ^ 31

/-- 45_system.md R174: no action reaches outside a byte memory; a step stops only on a bus access that has no meaning. -/
def Obligations.StepStopsOnlyOnUndefinedAccess : Prop :=
  ∀ s : State, Inv s.block →
    (∀ f, step s ≠ .fault f) ∧
    ((∃ r, step s = .refused r) ↔
      ∃ off size as, (s.host.pending = .read off size :: as ∨ ∃ w, s.host.pending = .write off size w :: as) ∧
        ¬ (size = 4 ∧ off % 4 = 0 ∧ off < 0x58))

/-! ### The host's side of the register map (10_state.md, 20_memory.md, 70_reset_and_hazards.md) -/

/-- 20_memory.md R60, 30_encoding.md R70: a step performs the host's oldest action, whatever it is, on the state with that
action taken off; a command word written to CMD has its command executed, an illegal one raises ILLCMD; with nothing pending
the state is held (60_exceptions.md R196; log 2, log 4). -/
def Obligations.StepRunsDecodedCommand : Prop :=
  (∀ (s : State) (a : HostAction) (as : List HostAction),
    s.host.pending = a :: as → step s = perform a (s.withPending as)) ∧
  (∀ (s : State) (w : Word) (i : Instr) (as : List HostAction),
    s.host.pending = .write 0x00 4 w :: as → decode w = .ok i → step s = exec i (s.withPending as)) ∧
  (∀ (s : State) (w : Word) (e : Illegal) (as : List HostAction),
    s.host.pending = .write 0x00 4 w :: as → decode w = .error e →
      RecordsFault (s.withPending as) (step s) 1#4) ∧
  (∀ s : State, s.host.pending = [] → step s = .next s)

/-- 10_state.md R37, R38: what each register reads as, in numbers. RXDATA and FDATA within the lengths. -/
def Obligations.RegisterMapShowsState : Prop :=
  ∀ s : State,
    let b := s.block
    Reads s 0x00 0#32 ∧
    Reads s 0x04 (BitVec.ofNat 32 (2 * b.v.toNat + 4 * b.found.toNat + 8 * b.dok.toNat + 16 * b.err.toNat)) ∧
    Reads s 0x08 (BitVec.ofNat 32 b.crc.toNat) ∧
    Reads s 0x0C (BitVec.ofNat 32 b.rxlen.toNat) ∧
    Reads s 0x10 (BitVec.ofNat 32 b.flen.toNat) ∧
    Reads s 0x14 (BitVec.ofNat 32 b.fstart.toNat) ∧
    Reads s 0x18 b.badcnt ∧
    Reads s 0x1C (BitVec.ofNat 32 b.txlen.toNat) ∧
    (∀ n, n < 8 → Reads s (0x20 + 4 * n) (BitVec.ofNat 32 (b.txByte n).toNat)) ∧
    Reads s 0x40 (BitVec.ofNat 32 (b.rspAddr.toNat + 256 * b.rspFunc.toNat + 65536 * b.rspBc.toNat)) ∧
    Reads s 0x44 (BitVec.ofNat 32 b.raw.toNat) ∧
    Reads s 0x48 b.value ∧
    Reads s 0x4C (BitVec.ofNat 32 b.bufidx.toNat) ∧
    (RxInRange b → b.bufidx.toNat < b.rxlen.toNat →
      Reads s 0x50 (BitVec.ofNat 32 (b.rxByte b.bufidx.toNat).toNat)) ∧
    (b.flen.toNat ≤ Config.rxCap → b.bufidx.toNat < b.flen.toNat →
      Reads s 0x54 (BitVec.ofNat 32 (b.fByte b.bufidx.toNat).toNat))

/-- 10_state.md R39 (b), (d): no read changes the block; a read out of range returns some byte with bits 31:8 zero. -/
def Obligations.ReadsChangeNothing : Prop :=
  (∀ (s t : State) (off : Nat), perform (.read off 4) s = .next t →
    t.block = s.block ∧ t.host.pending = s.host.pending ∧ ∃ w, t.host.replies = w :: s.host.replies) ∧
  (∀ s : State, s.block.rxlen.toNat ≤ s.block.bufidx.toNat → ∃ x : Byte, Reads s 0x50 (BitVec.ofNat 32 x.toNat)) ∧
  (∀ s : State, s.block.flen.toNat ≤ s.block.bufidx.toNat → ∃ x : Byte, Reads s 0x54 (BitVec.ofNat 32 x.toNat))

/-- 10_state.md R33, R39 (c): a write of BUFIDXR keeps bits W_LEN-1 to 0 and writes nothing else; a write of any other
offset of the map but CMD is ignored. -/
def Obligations.WritesReachOnlyCmdAndBufidx : Prop :=
  (∀ (s : State) (w : Word), ∃ t, perform (.write 0x4C 4 w) s = .next t ∧
    t.block.bufidx.toNat = w.toNat % 2 ^ 11 ∧ SameExcept [.bufidx] s.block t.block ∧ t.host = s.host) ∧
  (∀ (s : State) (off : Nat) (w : Word), off % 4 = 0 → off < 0x58 → off ≠ 0x00 → off ≠ 0x4C →
    perform (.write off 4 w) s = .next s)

/-- 20_memory.md R55, R58: an access that is not a whole aligned word of the map is refused, read or write. -/
def Obligations.UndefinedAccessesRefused : Prop :=
  ∀ (s : State) (off size : Nat) (w : Word), ¬ (size = 4 ∧ off % 4 = 0 ∧ off < 0x58) →
    (∃ r, perform (.read off size) s = .refused r) ∧ (∃ r, perform (.write off size w) s = .refused r)

/-- 10_state.md R41, 70_reset_and_hazards.md R200: what reset leaves, from every state, BUSY among it (STATUS reads 0);
it is also the state the machine starts in. -/
def Obligations.ResetLeaves : Prop :=
  ∀ s : State, ∃ t, perform .reset s = .next t ∧ t.host = s.host ∧ t.block = State.reset.block ∧
    t.block.crc = 0xFFFF#16 ∧ t.block.v = false ∧ t.block.found = false ∧ t.block.dok = false ∧
    t.block.err = 0#4 ∧ t.block.rxlen.toNat = 0 ∧ t.block.rx = [] ∧ t.block.flen.toNat = 0 ∧
    t.block.fstart.toNat = 0 ∧ t.block.frame = [] ∧ t.block.badcnt = 0#32 ∧ t.block.txlen.toNat = 0 ∧
    (∀ n, n < 8 → Memory.read .tx t.block.txbuf n = some 0x00#8) ∧
    t.block.rspAddr = 0x00#8 ∧ t.block.rspFunc = 0x00#8 ∧ t.block.rspBc = 0x00#8 ∧
    t.block.raw = 0x0000#16 ∧ t.block.value = 0x00000000#32 ∧ t.block.bufidx.toNat = 0 ∧ Reads t 0x04 0#32
end

