-- ==== Sys2Proof/Laws/Crc.lean ====
section
/-! SUPPORT. The laws of the CRC functions that later proofs cite in place of unfolding them. -/

namespace Sys2Proof.Machine

@[simp] theorem crcFrom_nil (c : Half) : crcFrom c [] = c := rfl

@[simp] theorem crcFrom_cons (c : Half) (b : Byte) (bs : List Byte) :
    crcFrom c (b :: bs) = crcFrom (crcByte c b) bs := rfl

theorem crcFrom_append (c : Half) (bs cs : List Byte) : crcFrom c (bs ++ cs) = crcFrom (crcFrom c bs) cs := by
  simp [crcFrom, List.foldl_append]

@[simp] theorem crc16_nil : crc16 [] = Config.crcInit := rfl

theorem crc16_append (bs cs : List Byte) : crc16 (bs ++ cs) = crcFrom (crc16 bs) cs := crcFrom_append _ _ _

theorem crcBit_zero : crcBit 0#16 = 0#16 := by decide

/-- A round is linear over exclusive or, which is why the table form holds (40_crc_engine.md R105 (a)). -/
theorem crcBit_xor (c d : Half) : crcBit (c ^^^ d) = crcBit c ^^^ crcBit d := by
  unfold crcBit
  rw [BitVec.getLsbD_xor, BitVec.ushiftRight_xor_distrib]
  cases hc : c.getLsbD 0 <;> cases hd : d.getLsbD 0 <;> simp
  · rw [BitVec.xor_assoc]
  · rw [BitVec.xor_assoc, BitVec.xor_comm (d >>> 1), ← BitVec.xor_assoc]
  · rw [show c >>> 1 ^^^ Config.poly ^^^ (d >>> 1 ^^^ Config.poly)
        = (c >>> 1 ^^^ d >>> 1) ^^^ (Config.poly ^^^ Config.poly) by
          ac_rfl]
    simp

theorem crcRounds_xor (n : Nat) (c d : Half) : crcRounds n (c ^^^ d) = crcRounds n c ^^^ crcRounds n d := by
  induction n generalizing c d with
  | zero => rfl
  | succ n ih => rw [crcRounds, crcBit_xor, ih]; rfl

theorem crcRounds_zero (n : Nat) : crcRounds n 0#16 = 0#16 := by
  induction n with
  | zero => rfl
  | succ n ih => rw [crcRounds, crcBit_zero, ih]

/-- The byte and the accumulator enter alike. -/
theorem crcByte_eq_xor (c : Half) (b : Byte) : crcByte c b = crcRounds Config.rounds c ^^^ crcTab b :=
  crcRounds_xor _ _ _

/-! ### The two checksum bytes -/

@[simp] theorem checksum_length (bs : List Byte) : (checksum bs).length = 2 := rfl

theorem crcHi_append_crcLo (c : Half) : crcHi c ++ crcLo c = c := by
  apply BitVec.eq_of_getLsbD_eq
  intro i hi
  simp only [crcHi, crcLo, BitVec.getLsbD_append, BitVec.getLsbD_extractLsb']
  by_cases h : i < 8
  · simp [h]
  · have h8 : 8 + (i - 8) = i := by omega
    have hlt : i - 8 < 8 := by omega
    simp [h, h8, hlt]

/-- A checksum is determined by its two bytes. -/
theorem crc_ext {c d : Half} (hl : crcLo c = crcLo d) (hh : crcHi c = crcHi d) : c = d := by
  rw [← crcHi_append_crcLo c, ← crcHi_append_crcLo d, hl, hh]

/-! ### `verify` -/

theorem verify_of_lt {bs : List Byte} (h : bs.length < 2) : verify bs = none := by simp [verify, h]

theorem verify_of_le {bs : List Byte} (h : 2 ≤ bs.length) :
    verify bs = some (checksumMatches bs (bodyCrc bs)) := by
  simp [verify, Nat.not_lt.2 h]

theorem passes_iff {bs : List Byte} : passes bs = true ↔ verify bs = some true := by simp [passes]

@[simp] theorem bodyCrc_append (bs : List Byte) (lo hi : Byte) : bodyCrc (bs ++ [lo, hi]) = crc16 bs := by
  simp [bodyCrc]

@[simp] theorem checksumMatches_append (bs : List Byte) (lo hi : Byte) (c : Half) :
    checksumMatches (bs ++ [lo, hi]) c = (lo == crcLo c && hi == crcHi c) := by
  have h1 : (bs ++ [lo, hi])[bs.length]? = some lo := by simp
  have h2 : (bs ++ [lo, hi])[bs.length + 1]? = some hi := by
    rw [List.getElem?_append_right (by omega)]
    simp
  simp [checksumMatches]

/-- Every sequence of two bytes or more is a body and two trailing bytes. -/
theorem exists_body {bs : List Byte} (h : 2 ≤ bs.length) : ∃ body lo hi, bs = body ++ [lo, hi] := by
  obtain ⟨l, hi, rfl⟩ := List.eq_nil_or_concat' bs |>.resolve_left (by rintro rfl; simp at h)
  obtain ⟨body, lo, rfl⟩ := List.eq_nil_or_concat' l |>.resolve_left (by rintro rfl; simp at h)
  exact ⟨body, lo, hi, by simp⟩

/-- What `verify` says of a body and two trailing bytes (40_crc_engine.md R104). -/
theorem verify_append (bs : List Byte) (lo hi : Byte) :
    verify (bs ++ [lo, hi]) = some (lo == crcLo (crc16 bs) && hi == crcHi (crc16 bs)) := by
  rw [verify_of_le (by simp)]
  simp

end Sys2Proof.Machine
end

