-- ==== Sys2Proof/Laws/State.lean ====
section
/-! SUPPORT. One lemma per field per update of the state, so that no proof unfolds a record update. -/

namespace Sys2Proof.Machine

@[simp] theorem State.setBlock_block (s : State) (b : Block) : (s.setBlock b).block = b := rfl
@[simp] theorem State.setBlock_host (s : State) (b : Block) : (s.setBlock b).host = s.host := rfl
@[simp] theorem State.setHost_block (s : State) (h : HostPort) : (s.setHost h).block = s.block := rfl
@[simp] theorem State.setHost_host (s : State) (h : HostPort) : (s.setHost h).host = h := rfl
@[simp] theorem State.setBlock_self (s : State) : s.setBlock s.block = s := rfl
@[simp] theorem State.setBlock_setBlock (s : State) (b c : Block) : (s.setBlock b).setBlock c = s.setBlock c := rfl
@[simp] theorem State.reset_block : State.reset.block = Block.reset := rfl

@[simp] theorem HostPort.answer_pending (h : HostPort) (w : Word) (d : Bool) : (h.answer w d).pending = h.pending := rfl
@[simp] theorem HostPort.answer_replies (h : HostPort) (w : Word) (d : Bool) : (h.answer w d).replies = w :: h.replies := rfl
@[simp] theorem HostPort.rest_pending (h : HostPort) (as : List HostAction) : (h.rest as).pending = as := rfl
@[simp] theorem HostPort.rest_replies (h : HostPort) (as : List HostAction) : (h.rest as).replies = h.replies := rfl
@[simp] theorem HostPort.rest_draws (h : HostPort) (as : List HostAction) : (h.rest as).draws = h.draws := rfl
@[simp] theorem HostPort.issueNext_pending (h : HostPort) (w : Word) : (h.issueNext w).pending = .write 0x00 4 w :: h.pending := rfl
@[simp] theorem HostPort.issueNext_replies (h : HostPort) (w : Word) : (h.issueNext w).replies = h.replies := rfl
@[simp] theorem HostPort.issueNext_draws (h : HostPort) (w : Word) : (h.issueNext w).draws = h.draws := rfl
@[simp] theorem HostPort.rest_issueNext (h : HostPort) (w : Word) : (h.issueNext w).rest h.pending = h := rfl

section Block
variable (b : Block)

@[simp] theorem Block.setCrc_crc (c : Half) : (b.setCrc c).crc = c := rfl
@[simp] theorem Block.setCrc_v (c : Half) : (b.setCrc c).v = b.v := rfl
@[simp] theorem Block.setCrc_found (c : Half) : (b.setCrc c).found = b.found := rfl
@[simp] theorem Block.setCrc_dok (c : Half) : (b.setCrc c).dok = b.dok := rfl
@[simp] theorem Block.setCrc_err (c : Half) : (b.setCrc c).err = b.err := rfl
@[simp] theorem Block.setCrc_rxbuf (c : Half) : (b.setCrc c).rxbuf = b.rxbuf := rfl
@[simp] theorem Block.setCrc_rxlen (c : Half) : (b.setCrc c).rxlen = b.rxlen := rfl
@[simp] theorem Block.setCrc_fbuf (c : Half) : (b.setCrc c).fbuf = b.fbuf := rfl
@[simp] theorem Block.setCrc_flen (c : Half) : (b.setCrc c).flen = b.flen := rfl
@[simp] theorem Block.setCrc_fstart (c : Half) : (b.setCrc c).fstart = b.fstart := rfl
@[simp] theorem Block.setCrc_badcnt (c : Half) : (b.setCrc c).badcnt = b.badcnt := rfl
@[simp] theorem Block.setCrc_txbuf (c : Half) : (b.setCrc c).txbuf = b.txbuf := rfl
@[simp] theorem Block.setCrc_txlen (c : Half) : (b.setCrc c).txlen = b.txlen := rfl
@[simp] theorem Block.setCrc_rspAddr (c : Half) : (b.setCrc c).rspAddr = b.rspAddr := rfl
@[simp] theorem Block.setCrc_rspFunc (c : Half) : (b.setCrc c).rspFunc = b.rspFunc := rfl
@[simp] theorem Block.setCrc_rspBc (c : Half) : (b.setCrc c).rspBc = b.rspBc := rfl
@[simp] theorem Block.setCrc_raw (c : Half) : (b.setCrc c).raw = b.raw := rfl
@[simp] theorem Block.setCrc_value (c : Half) : (b.setCrc c).value = b.value := rfl
@[simp] theorem Block.setCrc_bufidx (c : Half) : (b.setCrc c).bufidx = b.bufidx := rfl

@[simp] theorem Block.setV_crc (x : Bool) : (b.setV x).crc = b.crc := rfl
@[simp] theorem Block.setV_v (x : Bool) : (b.setV x).v = x := rfl
@[simp] theorem Block.setV_found (x : Bool) : (b.setV x).found = b.found := rfl
@[simp] theorem Block.setV_dok (x : Bool) : (b.setV x).dok = b.dok := rfl
@[simp] theorem Block.setV_err (x : Bool) : (b.setV x).err = b.err := rfl
@[simp] theorem Block.setV_rxbuf (x : Bool) : (b.setV x).rxbuf = b.rxbuf := rfl
@[simp] theorem Block.setV_rxlen (x : Bool) : (b.setV x).rxlen = b.rxlen := rfl
@[simp] theorem Block.setV_fbuf (x : Bool) : (b.setV x).fbuf = b.fbuf := rfl
@[simp] theorem Block.setV_flen (x : Bool) : (b.setV x).flen = b.flen := rfl
@[simp] theorem Block.setV_fstart (x : Bool) : (b.setV x).fstart = b.fstart := rfl
@[simp] theorem Block.setV_badcnt (x : Bool) : (b.setV x).badcnt = b.badcnt := rfl
@[simp] theorem Block.setV_txbuf (x : Bool) : (b.setV x).txbuf = b.txbuf := rfl
@[simp] theorem Block.setV_txlen (x : Bool) : (b.setV x).txlen = b.txlen := rfl
@[simp] theorem Block.setV_rspAddr (x : Bool) : (b.setV x).rspAddr = b.rspAddr := rfl
@[simp] theorem Block.setV_rspFunc (x : Bool) : (b.setV x).rspFunc = b.rspFunc := rfl
@[simp] theorem Block.setV_rspBc (x : Bool) : (b.setV x).rspBc = b.rspBc := rfl
@[simp] theorem Block.setV_raw (x : Bool) : (b.setV x).raw = b.raw := rfl
@[simp] theorem Block.setV_value (x : Bool) : (b.setV x).value = b.value := rfl
@[simp] theorem Block.setV_bufidx (x : Bool) : (b.setV x).bufidx = b.bufidx := rfl

@[simp] theorem Block.setErr_crc (e : BitVec 4) : (b.setErr e).crc = b.crc := rfl
@[simp] theorem Block.setErr_v (e : BitVec 4) : (b.setErr e).v = b.v := rfl
@[simp] theorem Block.setErr_found (e : BitVec 4) : (b.setErr e).found = b.found := rfl
@[simp] theorem Block.setErr_dok (e : BitVec 4) : (b.setErr e).dok = b.dok := rfl
@[simp] theorem Block.setErr_err (e : BitVec 4) : (b.setErr e).err = e := rfl
@[simp] theorem Block.setErr_rxbuf (e : BitVec 4) : (b.setErr e).rxbuf = b.rxbuf := rfl
@[simp] theorem Block.setErr_rxlen (e : BitVec 4) : (b.setErr e).rxlen = b.rxlen := rfl
@[simp] theorem Block.setErr_fbuf (e : BitVec 4) : (b.setErr e).fbuf = b.fbuf := rfl
@[simp] theorem Block.setErr_flen (e : BitVec 4) : (b.setErr e).flen = b.flen := rfl
@[simp] theorem Block.setErr_fstart (e : BitVec 4) : (b.setErr e).fstart = b.fstart := rfl
@[simp] theorem Block.setErr_badcnt (e : BitVec 4) : (b.setErr e).badcnt = b.badcnt := rfl
@[simp] theorem Block.setErr_txbuf (e : BitVec 4) : (b.setErr e).txbuf = b.txbuf := rfl
@[simp] theorem Block.setErr_txlen (e : BitVec 4) : (b.setErr e).txlen = b.txlen := rfl
@[simp] theorem Block.setErr_rspAddr (e : BitVec 4) : (b.setErr e).rspAddr = b.rspAddr := rfl
@[simp] theorem Block.setErr_rspFunc (e : BitVec 4) : (b.setErr e).rspFunc = b.rspFunc := rfl
@[simp] theorem Block.setErr_rspBc (e : BitVec 4) : (b.setErr e).rspBc = b.rspBc := rfl
@[simp] theorem Block.setErr_raw (e : BitVec 4) : (b.setErr e).raw = b.raw := rfl
@[simp] theorem Block.setErr_value (e : BitVec 4) : (b.setErr e).value = b.value := rfl
@[simp] theorem Block.setErr_bufidx (e : BitVec 4) : (b.setErr e).bufidx = b.bufidx := rfl

@[simp] theorem Block.setRx_crc (m : Memory) (n : Len) : (b.setRx m n).crc = b.crc := rfl
@[simp] theorem Block.setRx_v (m : Memory) (n : Len) : (b.setRx m n).v = b.v := rfl
@[simp] theorem Block.setRx_found (m : Memory) (n : Len) : (b.setRx m n).found = b.found := rfl
@[simp] theorem Block.setRx_dok (m : Memory) (n : Len) : (b.setRx m n).dok = b.dok := rfl
@[simp] theorem Block.setRx_err (m : Memory) (n : Len) : (b.setRx m n).err = b.err := rfl
@[simp] theorem Block.setRx_rxbuf (m : Memory) (n : Len) : (b.setRx m n).rxbuf = m := rfl
@[simp] theorem Block.setRx_rxlen (m : Memory) (n : Len) : (b.setRx m n).rxlen = n := rfl
@[simp] theorem Block.setRx_fbuf (m : Memory) (n : Len) : (b.setRx m n).fbuf = b.fbuf := rfl
@[simp] theorem Block.setRx_flen (m : Memory) (n : Len) : (b.setRx m n).flen = b.flen := rfl
@[simp] theorem Block.setRx_fstart (m : Memory) (n : Len) : (b.setRx m n).fstart = b.fstart := rfl
@[simp] theorem Block.setRx_badcnt (m : Memory) (n : Len) : (b.setRx m n).badcnt = b.badcnt := rfl
@[simp] theorem Block.setRx_txbuf (m : Memory) (n : Len) : (b.setRx m n).txbuf = b.txbuf := rfl
@[simp] theorem Block.setRx_txlen (m : Memory) (n : Len) : (b.setRx m n).txlen = b.txlen := rfl
@[simp] theorem Block.setRx_rspAddr (m : Memory) (n : Len) : (b.setRx m n).rspAddr = b.rspAddr := rfl
@[simp] theorem Block.setRx_rspFunc (m : Memory) (n : Len) : (b.setRx m n).rspFunc = b.rspFunc := rfl
@[simp] theorem Block.setRx_rspBc (m : Memory) (n : Len) : (b.setRx m n).rspBc = b.rspBc := rfl
@[simp] theorem Block.setRx_raw (m : Memory) (n : Len) : (b.setRx m n).raw = b.raw := rfl
@[simp] theorem Block.setRx_value (m : Memory) (n : Len) : (b.setRx m n).value = b.value := rfl
@[simp] theorem Block.setRx_bufidx (m : Memory) (n : Len) : (b.setRx m n).bufidx = b.bufidx := rfl

@[simp] theorem Block.setFrame_crc (x : Bool) (m : Memory) (n k : Len) : (b.setFrame x m n k).crc = b.crc := rfl
@[simp] theorem Block.setFrame_v (x : Bool) (m : Memory) (n k : Len) : (b.setFrame x m n k).v = b.v := rfl
@[simp] theorem Block.setFrame_found (x : Bool) (m : Memory) (n k : Len) : (b.setFrame x m n k).found = x := rfl
@[simp] theorem Block.setFrame_dok (x : Bool) (m : Memory) (n k : Len) : (b.setFrame x m n k).dok = b.dok := rfl
@[simp] theorem Block.setFrame_err (x : Bool) (m : Memory) (n k : Len) : (b.setFrame x m n k).err = b.err := rfl
@[simp] theorem Block.setFrame_rxbuf (x : Bool) (m : Memory) (n k : Len) : (b.setFrame x m n k).rxbuf = b.rxbuf := rfl
@[simp] theorem Block.setFrame_rxlen (x : Bool) (m : Memory) (n k : Len) : (b.setFrame x m n k).rxlen = b.rxlen := rfl
@[simp] theorem Block.setFrame_fbuf (x : Bool) (m : Memory) (n k : Len) : (b.setFrame x m n k).fbuf = m := rfl
@[simp] theorem Block.setFrame_flen (x : Bool) (m : Memory) (n k : Len) : (b.setFrame x m n k).flen = n := rfl
@[simp] theorem Block.setFrame_fstart (x : Bool) (m : Memory) (n k : Len) : (b.setFrame x m n k).fstart = k := rfl
@[simp] theorem Block.setFrame_badcnt (x : Bool) (m : Memory) (n k : Len) : (b.setFrame x m n k).badcnt = b.badcnt := rfl
@[simp] theorem Block.setFrame_txbuf (x : Bool) (m : Memory) (n k : Len) : (b.setFrame x m n k).txbuf = b.txbuf := rfl
@[simp] theorem Block.setFrame_txlen (x : Bool) (m : Memory) (n k : Len) : (b.setFrame x m n k).txlen = b.txlen := rfl
@[simp] theorem Block.setFrame_rspAddr (x : Bool) (m : Memory) (n k : Len) : (b.setFrame x m n k).rspAddr = b.rspAddr := rfl
@[simp] theorem Block.setFrame_rspFunc (x : Bool) (m : Memory) (n k : Len) : (b.setFrame x m n k).rspFunc = b.rspFunc := rfl
@[simp] theorem Block.setFrame_rspBc (x : Bool) (m : Memory) (n k : Len) : (b.setFrame x m n k).rspBc = b.rspBc := rfl
@[simp] theorem Block.setFrame_raw (x : Bool) (m : Memory) (n k : Len) : (b.setFrame x m n k).raw = b.raw := rfl
@[simp] theorem Block.setFrame_value (x : Bool) (m : Memory) (n k : Len) : (b.setFrame x m n k).value = b.value := rfl
@[simp] theorem Block.setFrame_bufidx (x : Bool) (m : Memory) (n k : Len) : (b.setFrame x m n k).bufidx = b.bufidx := rfl

@[simp] theorem Block.setBadcnt_crc (n : BitVec 32) : (b.setBadcnt n).crc = b.crc := rfl
@[simp] theorem Block.setBadcnt_v (n : BitVec 32) : (b.setBadcnt n).v = b.v := rfl
@[simp] theorem Block.setBadcnt_found (n : BitVec 32) : (b.setBadcnt n).found = b.found := rfl
@[simp] theorem Block.setBadcnt_dok (n : BitVec 32) : (b.setBadcnt n).dok = b.dok := rfl
@[simp] theorem Block.setBadcnt_err (n : BitVec 32) : (b.setBadcnt n).err = b.err := rfl
@[simp] theorem Block.setBadcnt_rxbuf (n : BitVec 32) : (b.setBadcnt n).rxbuf = b.rxbuf := rfl
@[simp] theorem Block.setBadcnt_rxlen (n : BitVec 32) : (b.setBadcnt n).rxlen = b.rxlen := rfl
@[simp] theorem Block.setBadcnt_fbuf (n : BitVec 32) : (b.setBadcnt n).fbuf = b.fbuf := rfl
@[simp] theorem Block.setBadcnt_flen (n : BitVec 32) : (b.setBadcnt n).flen = b.flen := rfl
@[simp] theorem Block.setBadcnt_fstart (n : BitVec 32) : (b.setBadcnt n).fstart = b.fstart := rfl
@[simp] theorem Block.setBadcnt_badcnt (n : BitVec 32) : (b.setBadcnt n).badcnt = n := rfl
@[simp] theorem Block.setBadcnt_txbuf (n : BitVec 32) : (b.setBadcnt n).txbuf = b.txbuf := rfl
@[simp] theorem Block.setBadcnt_txlen (n : BitVec 32) : (b.setBadcnt n).txlen = b.txlen := rfl
@[simp] theorem Block.setBadcnt_rspAddr (n : BitVec 32) : (b.setBadcnt n).rspAddr = b.rspAddr := rfl
@[simp] theorem Block.setBadcnt_rspFunc (n : BitVec 32) : (b.setBadcnt n).rspFunc = b.rspFunc := rfl
@[simp] theorem Block.setBadcnt_rspBc (n : BitVec 32) : (b.setBadcnt n).rspBc = b.rspBc := rfl
@[simp] theorem Block.setBadcnt_raw (n : BitVec 32) : (b.setBadcnt n).raw = b.raw := rfl
@[simp] theorem Block.setBadcnt_value (n : BitVec 32) : (b.setBadcnt n).value = b.value := rfl
@[simp] theorem Block.setBadcnt_bufidx (n : BitVec 32) : (b.setBadcnt n).bufidx = b.bufidx := rfl

@[simp] theorem Block.setTx_crc (m : Memory) (n : BitVec 4) : (b.setTx m n).crc = b.crc := rfl
@[simp] theorem Block.setTx_v (m : Memory) (n : BitVec 4) : (b.setTx m n).v = b.v := rfl
@[simp] theorem Block.setTx_found (m : Memory) (n : BitVec 4) : (b.setTx m n).found = b.found := rfl
@[simp] theorem Block.setTx_dok (m : Memory) (n : BitVec 4) : (b.setTx m n).dok = b.dok := rfl
@[simp] theorem Block.setTx_err (m : Memory) (n : BitVec 4) : (b.setTx m n).err = b.err := rfl
@[simp] theorem Block.setTx_rxbuf (m : Memory) (n : BitVec 4) : (b.setTx m n).rxbuf = b.rxbuf := rfl
@[simp] theorem Block.setTx_rxlen (m : Memory) (n : BitVec 4) : (b.setTx m n).rxlen = b.rxlen := rfl
@[simp] theorem Block.setTx_fbuf (m : Memory) (n : BitVec 4) : (b.setTx m n).fbuf = b.fbuf := rfl
@[simp] theorem Block.setTx_flen (m : Memory) (n : BitVec 4) : (b.setTx m n).flen = b.flen := rfl
@[simp] theorem Block.setTx_fstart (m : Memory) (n : BitVec 4) : (b.setTx m n).fstart = b.fstart := rfl
@[simp] theorem Block.setTx_badcnt (m : Memory) (n : BitVec 4) : (b.setTx m n).badcnt = b.badcnt := rfl
@[simp] theorem Block.setTx_txbuf (m : Memory) (n : BitVec 4) : (b.setTx m n).txbuf = m := rfl
@[simp] theorem Block.setTx_txlen (m : Memory) (n : BitVec 4) : (b.setTx m n).txlen = n := rfl
@[simp] theorem Block.setTx_rspAddr (m : Memory) (n : BitVec 4) : (b.setTx m n).rspAddr = b.rspAddr := rfl
@[simp] theorem Block.setTx_rspFunc (m : Memory) (n : BitVec 4) : (b.setTx m n).rspFunc = b.rspFunc := rfl
@[simp] theorem Block.setTx_rspBc (m : Memory) (n : BitVec 4) : (b.setTx m n).rspBc = b.rspBc := rfl
@[simp] theorem Block.setTx_raw (m : Memory) (n : BitVec 4) : (b.setTx m n).raw = b.raw := rfl
@[simp] theorem Block.setTx_value (m : Memory) (n : BitVec 4) : (b.setTx m n).value = b.value := rfl
@[simp] theorem Block.setTx_bufidx (m : Memory) (n : BitVec 4) : (b.setTx m n).bufidx = b.bufidx := rfl

@[simp] theorem Block.setRsp_crc (x y z : Byte) : (b.setRsp x y z).crc = b.crc := rfl
@[simp] theorem Block.setRsp_v (x y z : Byte) : (b.setRsp x y z).v = b.v := rfl
@[simp] theorem Block.setRsp_found (x y z : Byte) : (b.setRsp x y z).found = b.found := rfl
@[simp] theorem Block.setRsp_dok (x y z : Byte) : (b.setRsp x y z).dok = b.dok := rfl
@[simp] theorem Block.setRsp_err (x y z : Byte) : (b.setRsp x y z).err = b.err := rfl
@[simp] theorem Block.setRsp_rxbuf (x y z : Byte) : (b.setRsp x y z).rxbuf = b.rxbuf := rfl
@[simp] theorem Block.setRsp_rxlen (x y z : Byte) : (b.setRsp x y z).rxlen = b.rxlen := rfl
@[simp] theorem Block.setRsp_fbuf (x y z : Byte) : (b.setRsp x y z).fbuf = b.fbuf := rfl
@[simp] theorem Block.setRsp_flen (x y z : Byte) : (b.setRsp x y z).flen = b.flen := rfl
@[simp] theorem Block.setRsp_fstart (x y z : Byte) : (b.setRsp x y z).fstart = b.fstart := rfl
@[simp] theorem Block.setRsp_badcnt (x y z : Byte) : (b.setRsp x y z).badcnt = b.badcnt := rfl
@[simp] theorem Block.setRsp_txbuf (x y z : Byte) : (b.setRsp x y z).txbuf = b.txbuf := rfl
@[simp] theorem Block.setRsp_txlen (x y z : Byte) : (b.setRsp x y z).txlen = b.txlen := rfl
@[simp] theorem Block.setRsp_rspAddr (x y z : Byte) : (b.setRsp x y z).rspAddr = x := rfl
@[simp] theorem Block.setRsp_rspFunc (x y z : Byte) : (b.setRsp x y z).rspFunc = y := rfl
@[simp] theorem Block.setRsp_rspBc (x y z : Byte) : (b.setRsp x y z).rspBc = z := rfl
@[simp] theorem Block.setRsp_raw (x y z : Byte) : (b.setRsp x y z).raw = b.raw := rfl
@[simp] theorem Block.setRsp_value (x y z : Byte) : (b.setRsp x y z).value = b.value := rfl
@[simp] theorem Block.setRsp_bufidx (x y z : Byte) : (b.setRsp x y z).bufidx = b.bufidx := rfl

@[simp] theorem Block.setDok_crc (x : Bool) : (b.setDok x).crc = b.crc := rfl
@[simp] theorem Block.setDok_v (x : Bool) : (b.setDok x).v = b.v := rfl
@[simp] theorem Block.setDok_found (x : Bool) : (b.setDok x).found = b.found := rfl
@[simp] theorem Block.setDok_dok (x : Bool) : (b.setDok x).dok = x := rfl
@[simp] theorem Block.setDok_err (x : Bool) : (b.setDok x).err = b.err := rfl
@[simp] theorem Block.setDok_rxbuf (x : Bool) : (b.setDok x).rxbuf = b.rxbuf := rfl
@[simp] theorem Block.setDok_rxlen (x : Bool) : (b.setDok x).rxlen = b.rxlen := rfl
@[simp] theorem Block.setDok_fbuf (x : Bool) : (b.setDok x).fbuf = b.fbuf := rfl
@[simp] theorem Block.setDok_flen (x : Bool) : (b.setDok x).flen = b.flen := rfl
@[simp] theorem Block.setDok_fstart (x : Bool) : (b.setDok x).fstart = b.fstart := rfl
@[simp] theorem Block.setDok_badcnt (x : Bool) : (b.setDok x).badcnt = b.badcnt := rfl
@[simp] theorem Block.setDok_txbuf (x : Bool) : (b.setDok x).txbuf = b.txbuf := rfl
@[simp] theorem Block.setDok_txlen (x : Bool) : (b.setDok x).txlen = b.txlen := rfl
@[simp] theorem Block.setDok_rspAddr (x : Bool) : (b.setDok x).rspAddr = b.rspAddr := rfl
@[simp] theorem Block.setDok_rspFunc (x : Bool) : (b.setDok x).rspFunc = b.rspFunc := rfl
@[simp] theorem Block.setDok_rspBc (x : Bool) : (b.setDok x).rspBc = b.rspBc := rfl
@[simp] theorem Block.setDok_raw (x : Bool) : (b.setDok x).raw = b.raw := rfl
@[simp] theorem Block.setDok_value (x : Bool) : (b.setDok x).value = b.value := rfl
@[simp] theorem Block.setDok_bufidx (x : Bool) : (b.setDok x).bufidx = b.bufidx := rfl

@[simp] theorem Block.setValue_crc (r : Half) (w : Word) : (b.setValue r w).crc = b.crc := rfl
@[simp] theorem Block.setValue_v (r : Half) (w : Word) : (b.setValue r w).v = b.v := rfl
@[simp] theorem Block.setValue_found (r : Half) (w : Word) : (b.setValue r w).found = b.found := rfl
@[simp] theorem Block.setValue_dok (r : Half) (w : Word) : (b.setValue r w).dok = b.dok := rfl
@[simp] theorem Block.setValue_err (r : Half) (w : Word) : (b.setValue r w).err = b.err := rfl
@[simp] theorem Block.setValue_rxbuf (r : Half) (w : Word) : (b.setValue r w).rxbuf = b.rxbuf := rfl
@[simp] theorem Block.setValue_rxlen (r : Half) (w : Word) : (b.setValue r w).rxlen = b.rxlen := rfl
@[simp] theorem Block.setValue_fbuf (r : Half) (w : Word) : (b.setValue r w).fbuf = b.fbuf := rfl
@[simp] theorem Block.setValue_flen (r : Half) (w : Word) : (b.setValue r w).flen = b.flen := rfl
@[simp] theorem Block.setValue_fstart (r : Half) (w : Word) : (b.setValue r w).fstart = b.fstart := rfl
@[simp] theorem Block.setValue_badcnt (r : Half) (w : Word) : (b.setValue r w).badcnt = b.badcnt := rfl
@[simp] theorem Block.setValue_txbuf (r : Half) (w : Word) : (b.setValue r w).txbuf = b.txbuf := rfl
@[simp] theorem Block.setValue_txlen (r : Half) (w : Word) : (b.setValue r w).txlen = b.txlen := rfl
@[simp] theorem Block.setValue_rspAddr (r : Half) (w : Word) : (b.setValue r w).rspAddr = b.rspAddr := rfl
@[simp] theorem Block.setValue_rspFunc (r : Half) (w : Word) : (b.setValue r w).rspFunc = b.rspFunc := rfl
@[simp] theorem Block.setValue_rspBc (r : Half) (w : Word) : (b.setValue r w).rspBc = b.rspBc := rfl
@[simp] theorem Block.setValue_raw (r : Half) (w : Word) : (b.setValue r w).raw = r := rfl
@[simp] theorem Block.setValue_value (r : Half) (w : Word) : (b.setValue r w).value = w := rfl
@[simp] theorem Block.setValue_bufidx (r : Half) (w : Word) : (b.setValue r w).bufidx = b.bufidx := rfl

@[simp] theorem Block.setBufidx_crc (n : Len) : (b.setBufidx n).crc = b.crc := rfl
@[simp] theorem Block.setBufidx_v (n : Len) : (b.setBufidx n).v = b.v := rfl
@[simp] theorem Block.setBufidx_found (n : Len) : (b.setBufidx n).found = b.found := rfl
@[simp] theorem Block.setBufidx_dok (n : Len) : (b.setBufidx n).dok = b.dok := rfl
@[simp] theorem Block.setBufidx_err (n : Len) : (b.setBufidx n).err = b.err := rfl
@[simp] theorem Block.setBufidx_rxbuf (n : Len) : (b.setBufidx n).rxbuf = b.rxbuf := rfl
@[simp] theorem Block.setBufidx_rxlen (n : Len) : (b.setBufidx n).rxlen = b.rxlen := rfl
@[simp] theorem Block.setBufidx_fbuf (n : Len) : (b.setBufidx n).fbuf = b.fbuf := rfl
@[simp] theorem Block.setBufidx_flen (n : Len) : (b.setBufidx n).flen = b.flen := rfl
@[simp] theorem Block.setBufidx_fstart (n : Len) : (b.setBufidx n).fstart = b.fstart := rfl
@[simp] theorem Block.setBufidx_badcnt (n : Len) : (b.setBufidx n).badcnt = b.badcnt := rfl
@[simp] theorem Block.setBufidx_txbuf (n : Len) : (b.setBufidx n).txbuf = b.txbuf := rfl
@[simp] theorem Block.setBufidx_txlen (n : Len) : (b.setBufidx n).txlen = b.txlen := rfl
@[simp] theorem Block.setBufidx_rspAddr (n : Len) : (b.setBufidx n).rspAddr = b.rspAddr := rfl
@[simp] theorem Block.setBufidx_rspFunc (n : Len) : (b.setBufidx n).rspFunc = b.rspFunc := rfl
@[simp] theorem Block.setBufidx_rspBc (n : Len) : (b.setBufidx n).rspBc = b.rspBc := rfl
@[simp] theorem Block.setBufidx_raw (n : Len) : (b.setBufidx n).raw = b.raw := rfl
@[simp] theorem Block.setBufidx_value (n : Len) : (b.setBufidx n).value = b.value := rfl
@[simp] theorem Block.setBufidx_bufidx (n : Len) : (b.setBufidx n).bufidx = n := rfl

end Block

end Sys2Proof.Machine
end

