-- ==== Sys2Proof/Laws/Memory.lean ====
section
/-! SUPPORT. The laws of the byte memories: read after write, what a run of writes leaves, and that every operation keeps
the canonical form. -/

namespace Sys2Proof.Machine

/-! ### Listing -/

@[simp] theorem Memory.listed_nil (a : Nat) : Memory.listed [] a = none := rfl

theorem Memory.listed_cons (k : Nat) (b : Byte) (r : Memory) (a : Nat) :
    Memory.listed ((k, b) :: r) a = if k = a then some b else Memory.listed r a := rfl

theorem Memory.listed_list_same (m : Memory) (a : Nat) (b : Byte) :
    Memory.listed (Memory.list m a b) a = some b := by
  induction m with
  | nil => simp [Memory.list, Memory.listed]
  | cons c r ih =>
    obtain ⟨k, x⟩ := c
    simp only [Memory.list]
    split
    · simp [Memory.listed]
    · split
      · simp [Memory.listed]
      · rename_i h1 h2
        simp [Memory.listed, ih, Ne.symm h2]

theorem Memory.listed_list_other (m : Memory) {a c : Nat} (b : Byte) (h : c ≠ a) :
    Memory.listed (Memory.list m a b) c = Memory.listed m c := by
  induction m with
  | nil => simp [Memory.list, Memory.listed, Ne.symm h]
  | cons d r ih =>
    obtain ⟨k, x⟩ := d
    simp only [Memory.list]
    split
    · simp [Memory.listed, Ne.symm h]
    · split
      · rename_i h1 h2
        subst h2
        simp [Memory.listed, Ne.symm h]
      · simp [Memory.listed, ih]

theorem Memory.listed_unlist_same (m : Memory) (a : Nat) : Memory.listed (Memory.unlist m a) a = none := by
  induction m with
  | nil => rfl
  | cons d r ih =>
    obtain ⟨k, x⟩ := d
    by_cases h : k = a
    · simpa [Memory.unlist, h] using ih
    · simpa [Memory.unlist, h, Memory.listed] using ih

theorem Memory.listed_unlist_other (m : Memory) {a c : Nat} (h : c ≠ a) :
    Memory.listed (Memory.unlist m a) c = Memory.listed m c := by
  induction m with
  | nil => rfl
  | cons d r ih =>
    obtain ⟨k, x⟩ := d
    by_cases hk : k = a
    · subst hk
      simpa [Memory.unlist, Memory.listed, Ne.symm h] using ih
    · have hr : Memory.unlist ((k, x) :: r) a = (k, x) :: Memory.unlist r a := by simp [Memory.unlist, hk]
      rw [hr, Memory.listed_cons, Memory.listed_cons, ih]

theorem Memory.mem_list {m : Memory} {a : Nat} {b : Byte} {c : Host.Cell} (h : c ∈ Memory.list m a b) :
    c = (a, b) ∨ c ∈ m := by
  induction m with
  | nil => simpa [Memory.list] using h
  | cons d r ih =>
    obtain ⟨k, x⟩ := d
    simp only [Memory.list] at h
    split at h
    · simpa using h
    · split at h
      · rcases List.mem_cons.1 h with h | h
        · exact .inl h
        · exact .inr (List.mem_cons_of_mem _ h)
      · rcases List.mem_cons.1 h with h | h
        · exact .inr (by simp [h])
        · rcases ih h with h | h
          · exact .inl h
          · exact .inr (List.mem_cons_of_mem _ h)

theorem Memory.rising_list (m : Memory) (a : Nat) (b : Byte) (h : m.Pairwise (fun x y => x.1 < y.1)) :
    (Memory.list m a b).Pairwise (fun x y => x.1 < y.1) := by
  induction m with
  | nil => simp [Memory.list]
  | cons d r ih =>
    obtain ⟨k, x⟩ := d
    rw [List.pairwise_cons] at h
    simp only [Memory.list]
    split
    · rename_i hlt
      rw [List.pairwise_cons, List.pairwise_cons]
      refine ⟨?_, h⟩
      intro c hc
      rcases List.mem_cons.1 hc with rfl | hc
      · exact hlt
      · exact Nat.lt_trans hlt (h.1 c hc)
    · split
      · rename_i h1 h2
        subst h2
        exact List.pairwise_cons.2 h
      · rename_i h1 h2
        refine List.pairwise_cons.2 ⟨?_, ih h.2⟩
        intro c hc
        rcases Memory.mem_list hc with rfl | hc
        · simp only
          omega
        · exact h.1 c hc

/-! ### Read after write -/

@[simp] theorem Memory.read_nil (sp : Space) (a : Nat) : Memory.read sp [] a = sp.unlisted := by
  simp [Memory.read]

/-- A read after a write to the same index gives the byte written. -/
@[simp] theorem Memory.read_write_same (sp : Space) (m : Memory) (a : Nat) (b : Byte) :
    Memory.read sp (Memory.write sp m a b) a = some b := by
  unfold Memory.write
  split
  · rename_i h
    simp [Memory.read, Memory.listed_unlist_same, h]
  · simp [Memory.read, Memory.listed_list_same]

/-- A write leaves every other index alone. -/
theorem Memory.read_write_other (sp : Space) (m : Memory) {a c : Nat} (b : Byte) (h : c ≠ a) :
    Memory.read sp (Memory.write sp m a b) c = Memory.read sp m c := by
  unfold Memory.write
  split
  · simp [Memory.read, Memory.listed_unlist_other m h]
  · simp [Memory.read, Memory.listed_list_other m b h]

theorem Memory.read_write (sp : Space) (m : Memory) (a c : Nat) (b : Byte) :
    Memory.read sp (Memory.write sp m a b) c = if c = a then some b else Memory.read sp m c := by
  by_cases h : c = a
  · subst h
    simp
  · simp [h, Memory.read_write_other]

/-- What a run of writes leaves: the bytes written, and every other index as before. -/
theorem Memory.read_writeSeq (sp : Space) (m : Memory) (a : Nat) (bs : List Byte) (c : Nat) :
    Memory.read sp (Memory.writeSeq sp m a bs) c =
      if a ≤ c ∧ c < a + bs.length then bs[c - a]? else Memory.read sp m c := by
  induction bs generalizing m a with
  | nil => simp [Memory.writeSeq]
  | cons b bs ih =>
    rw [Memory.writeSeq, ih, Memory.read_write]
    by_cases h : c = a
    · subst h
      simp
    · by_cases h2 : a + 1 ≤ c ∧ c < a + 1 + bs.length
      · have h3 : a ≤ c ∧ c < a + (b :: bs).length := by simp; omega
        rw [if_pos h2, if_pos h3]
        have : c - a = (c - (a + 1)) + 1 := by omega
        rw [this, List.getElem?_cons_succ]
      · have h3 : ¬ (a ≤ c ∧ c < a + (b :: bs).length) := by simp; omega
        rw [if_neg h2, if_neg h, if_neg h3]

theorem Memory.read_holding (sp : Space) (bs : List Byte) (c : Nat) :
    Memory.read sp (Memory.holding sp bs) c = if c < bs.length then bs[c]? else sp.unlisted := by
  rw [Memory.holding, Memory.read_writeSeq]
  simp

theorem Memory.byteAt_holding (sp : Space) (bs : List Byte) (c : Nat) (h : c < bs.length) :
    Memory.byteAt sp (Memory.holding sp bs) c = bs[c] := by
  simp [Memory.byteAt, Memory.read_holding, h]

theorem Memory.byteAt_of_read {sp : Space} {m : Memory} {a : Nat} {b : Byte} (h : Memory.read sp m a = some b) :
    Memory.byteAt sp m a = b := by
  simp [Memory.byteAt, h]

/-- The bytes of a memory that holds `bs` are `bs`. -/
@[simp] theorem Memory.bytes_holding (sp : Space) (bs : List Byte) :
    (List.range bs.length).map (Memory.byteAt sp (Memory.holding sp bs)) = bs := by
  apply List.ext_getElem
  · simp
  · intro i h1 h2
    simp only [List.getElem_map, List.getElem_range]
    exact Memory.byteAt_holding sp bs i h2

/-! ### The canonical form -/

theorem Memory.wf_nil (sp : Space) : Memory.wf sp [] := by simp [Memory.wf]

/-- A write at an index that exists keeps the canonical form. -/
theorem Memory.wf_write {sp : Space} {m : Memory} {a : Nat} (b : Byte) (h : Memory.wf sp m) (ha : a < sp.size) :
    Memory.wf sp (Memory.write sp m a b) := by
  unfold Memory.write
  split
  · exact ⟨h.1.filter _, fun c hc => h.2 c (List.mem_of_mem_filter hc)⟩
  · rename_i hb
    refine ⟨Memory.rising_list m a b h.1, fun c hc => ?_⟩
    rcases Memory.mem_list hc with rfl | hc
    · exact ⟨ha, hb⟩
    · exact h.2 c hc

/-- A run of writes at indices that exist keeps the canonical form. -/
theorem Memory.wf_writeSeq {sp : Space} {m : Memory} {a : Nat} (bs : List Byte) (h : Memory.wf sp m)
    (ha : a + bs.length ≤ sp.size) : Memory.wf sp (Memory.writeSeq sp m a bs) := by
  induction bs generalizing m a with
  | nil => exact h
  | cons b bs ih =>
    simp only [List.length_cons] at ha
    exact ih (Memory.wf_write b h (by omega)) (by omega)

theorem Memory.wf_holding (sp : Space) (bs : List Byte) (h : bs.length ≤ sp.size) :
    Memory.wf sp (Memory.holding sp bs) :=
  Memory.wf_writeSeq bs (Memory.wf_nil sp) (by omega)

/-- Listing at an index above all listed ones puts it at the end. -/
theorem Memory.list_above (m : Memory) (a : Nat) (b : Byte) (h : ∀ c ∈ m, c.1 < a) :
    Memory.list m a b = m ++ [(a, b)] := by
  induction m with
  | nil => rfl
  | cons d r ih =>
    obtain ⟨k, x⟩ := d
    have hk : k < a := h (k, x) (by simp)
    simp only [Memory.list, if_neg (Nat.lt_asymm hk), if_neg (Nat.ne_of_gt hk), List.cons_append]
    rw [ih fun c hc => h c (List.mem_cons_of_mem _ hc)]

/-- A memory without default that lists exactly the indices below `n` lists one more after a write at `n`. -/
theorem Memory.listed_write_next {sp : Space} {m : Memory} {n : Nat} (b : Byte) (hsp : sp.unlisted = none)
    (h : m.map Prod.fst = List.range n) :
    (Memory.write sp m n b).map Prod.fst = List.range (n + 1) := by
  have hlt : ∀ c ∈ m, c.1 < n := by
    intro c hc
    have : c.1 ∈ m.map Prod.fst := List.mem_map_of_mem hc
    rwa [h, List.mem_range] at this
  simp [Memory.write, hsp, Memory.list_above m n b hlt, h, List.range_succ]

theorem Memory.listed_writeSeq_next {sp : Space} {m : Memory} {n : Nat} (bs : List Byte) (hsp : sp.unlisted = none)
    (h : m.map Prod.fst = List.range n) :
    (Memory.writeSeq sp m n bs).map Prod.fst = List.range (n + bs.length) := by
  induction bs generalizing m n with
  | nil => simpa [Memory.writeSeq] using h
  | cons b bs ih =>
    rw [Memory.writeSeq, ih (Memory.listed_write_next b hsp h), List.length_cons]
    congr 1
    omega

/-- RXBUF and FBUF list exactly the indices of the bytes they hold. -/
theorem Memory.listed_holding {sp : Space} (bs : List Byte) (hsp : sp.unlisted = none) :
    (Memory.holding sp bs).map Prod.fst = List.range bs.length := by
  have := Memory.listed_writeSeq_next (sp := sp) (m := []) (n := 0) bs hsp (by simp)
  simpa [Memory.holding] using this

end Sys2Proof.Machine
end

