-- ==== Sys2Proof/Laws/Ops.lean ====
section
/-! SUPPORT. What each shared operation can do, said once: accesses, the implicit source RX, taking a fault, and which
fields an update leaves alone. -/

namespace Sys2Proof.Machine

/-! ### Constants -/

theorem rxCap_ge : 8 ≤ Config.rxCap := by decide

theorem rxCap_le : Config.rxCap ≤ 65535 := by decide

/-- `W_LEN` is wide enough for the capacity (00_scope.md R7). -/
theorem rxCap_lt_two_pow : Config.rxCap < 2 ^ Config.wLen := by decide

theorem toNat_lenOf {n : Nat} (h : n ≤ Config.rxCap) : (lenOf n).toNat = n := by
  rw [lenOf, BitVec.toNat_ofNat]
  exact Nat.mod_eq_of_lt (Nat.lt_of_le_of_lt h rxCap_lt_two_pow)

@[simp] theorem toNat_lenOf_zero : (lenOf 0).toNat = 0 := rfl

/-- RXLEN + 1 does not wrap below the capacity (45_system.md R172 (b)). -/
theorem toNat_add_one {n : Len} (h : n.toNat < Config.rxCap) : (n + lenOf 1).toNat = n.toNat + 1 := by
  have h1 : (lenOf 1).toNat = 1 := rfl
  rw [BitVec.toNat_add, h1]
  exact Nat.mod_eq_of_lt (by have := rxCap_lt_two_pow; omega)

/-! ### Accesses -/

@[simp] theorem access_ok {α : Type} (a : α) (k : α → Host.Outcome State Fault Refusal) : access (.ok a) k = k a := rfl

@[simp] theorem access_error {α : Type} (f : Fault) (k : α → Host.Outcome State Fault Refusal) :
    access (.error f : Except Fault α) k = .fault f := rfl

theorem readSeq_of_le {sp : Space} {m : Memory} {n : Nat} (h : n ≤ sp.size) :
    readSeq sp m n = .ok ((List.range n).map (Memory.byteAt sp m)) := if_pos h

theorem readSeq_of_gt {sp : Space} {m : Memory} {n : Nat} (h : sp.size < n) :
    readSeq sp m n = .error .indexOutsideMemory := if_neg (Nat.not_le.2 h)

theorem writeAt_of_lt {sp : Space} {m : Memory} {a : Nat} {b : Byte} (h : a < sp.size) :
    writeAt sp m a b = .ok (Memory.write sp m a b) := if_pos h

theorem writeAt_of_ge {sp : Space} {m : Memory} {a : Nat} {b : Byte} (h : sp.size ≤ a) :
    writeAt sp m a b = .error .indexOutsideMemory := if_neg (Nat.not_lt.2 h)

theorem readAt_of_lt {sp : Space} {m : Memory} {a : Nat} (h : a < sp.size) :
    readAt sp m a = .ok (Memory.byteAt sp m a) := if_pos h

/-- RX is the source of a command exactly when RXLEN is within the memory. -/
theorem withRx_of_inRange {s : State} (k : List Byte → Host.Outcome State Fault Refusal) (h : RxInRange s.block) :
    withRx s k = k s.block.rx := by
  unfold withRx
  rw [readSeq_of_le (show s.block.rxlen.toNat ≤ Space.size .rx from h)]
  rfl

theorem withRx_of_outside {s : State} (k : List Byte → Host.Outcome State Fault Refusal) (h : ¬ RxInRange s.block) :
    withRx s k = .fault .indexOutsideMemory := by
  unfold withRx
  rw [readSeq_of_gt (show Space.size .rx < s.block.rxlen.toNat from Nat.not_le.1 h)]
  rfl

/-! ### The sequences RX, F and TX -/

@[simp] theorem Block.rx_length (b : Block) : b.rx.length = b.rxlen.toNat := by simp [Block.rx]

@[simp] theorem Block.frame_length (b : Block) : b.frame.length = b.flen.toNat := by simp [Block.frame]

@[simp] theorem Block.tx_length (b : Block) : b.tx.length = Config.reqLen := by simp [Block.tx]

theorem Block.rx_congr {b c : Block} (hm : c.rxbuf = b.rxbuf) (hn : c.rxlen = b.rxlen) : c.rx = b.rx := by
  simp [Block.rx, hn, show c.rxByte = b.rxByte from funext fun i => by simp [Block.rxByte, hm]]

theorem Block.frame_congr {b c : Block} (hm : c.fbuf = b.fbuf) (hn : c.flen = b.flen) : c.frame = b.frame := by
  simp [Block.frame, hn, show c.fByte = b.fByte from funext fun i => by simp [Block.fByte, hm]]

theorem Block.tx_congr {b c : Block} (hm : c.txbuf = b.txbuf) : c.tx = b.tx := by
  simp [Block.tx, show c.txByte = b.txByte from funext fun i => by simp [Block.txByte, hm]]

/-- A block whose RXBUF holds the bytes `bs` and whose RXLEN is their number has `RX = bs`. -/
theorem Block.rx_of_holding {b : Block} {bs : List Byte} (hm : b.rxbuf = Memory.holding .rx bs)
    (hn : b.rxlen = lenOf bs.length) (h : bs.length ≤ Config.rxCap) : b.rx = bs := by
  have hb : b.rxByte = Memory.byteAt .rx (Memory.holding .rx bs) := funext fun i => by rw [← hm]; rfl
  rw [Block.rx, hn, toNat_lenOf h, hb]
  exact Memory.bytes_holding .rx bs

/-- The same for the frame buffer. -/
theorem Block.frame_of_holding {b : Block} {bs : List Byte} (hm : b.fbuf = Memory.holding .f bs)
    (hn : b.flen = lenOf bs.length) (h : bs.length ≤ Config.rxCap) : b.frame = bs := by
  have hb : b.fByte = Memory.byteAt .f (Memory.holding .f bs) := funext fun i => by rw [← hm]; rfl
  rw [Block.frame, hn, toNat_lenOf h, hb]
  exact Memory.bytes_holding .f bs

theorem Block.rx_setRx (b : Block) {bs : List Byte} (h : bs.length ≤ Config.rxCap) :
    (b.setRx (Memory.holding .rx bs) (lenOf bs.length)).rx = bs :=
  Block.rx_of_holding rfl rfl h

theorem Block.frame_setFrame (b : Block) (x : Bool) (k : Len) {bs : List Byte} (h : bs.length ≤ Config.rxCap) :
    (b.setFrame x (Memory.holding .f bs) (lenOf bs.length) k).frame = bs :=
  Block.frame_of_holding rfl rfl h

/-! ### Taking a fault -/

@[simp] theorem enterFault_host (s : State) (f : FaultCode) : (enterFault s f).host = s.host := by
  unfold enterFault
  split <;> rfl

/-- A fault writes ERR, as 60_exceptions.md R190 says, and nothing else. -/
theorem enterFault_block (s : State) (f : FaultCode) :
    (enterFault s f).block = s.block.setErr (errAfter s.block.err f.code) := by
  unfold enterFault errAfter
  split
  · rfl
  · cases s.block
    rfl

/-! ### What an update leaves alone -/

theorem SameExcept.refl (fs : List Field) (b : Block) : SameExcept fs b b := by
  intro f _
  cases f <;> simp [Field.same]

theorem SameExcept.mono {fs gs : List Field} {b c : Block} (h : SameExcept fs b c) (hsub : ∀ f ∈ fs, f ∈ gs) :
    SameExcept gs b c :=
  fun f hf => h f fun hm => hf (hsub f hm)

theorem SameExcept.trans {fs : List Field} {b c d : Block} (h : SameExcept fs b c) (h' : SameExcept fs c d) :
    SameExcept fs b d := by
  intro f hf
  have h1 := h f hf
  have h2 := h' f hf
  cases f <;> simp_all [Field.same]

theorem sameExcept_setCrc (b : Block) (c : Half) : SameExcept [.crc] b (b.setCrc c) := by
  intro f hf
  cases f <;> simp_all [Field.same]

theorem sameExcept_setV (b : Block) (x : Bool) : SameExcept [.v] b (b.setV x) := by
  intro f hf
  cases f <;> simp_all [Field.same]

theorem sameExcept_setErr (b : Block) (e : BitVec 4) : SameExcept [.err] b (b.setErr e) := by
  intro f hf
  cases f <;> simp_all [Field.same]

theorem sameExcept_setRx (b : Block) (m : Memory) (n : Len) : SameExcept [.rxbuf, .rxlen] b (b.setRx m n) := by
  intro f hf
  cases f <;> simp_all [Field.same]

theorem sameExcept_setFrame (b : Block) (x : Bool) (m : Memory) (n k : Len) :
    SameExcept [.found, .fbuf, .flen, .fstart] b (b.setFrame x m n k) := by
  intro f hf
  cases f <;> simp_all [Field.same]

theorem sameExcept_setBadcnt (b : Block) (n : BitVec 32) : SameExcept [.badcnt] b (b.setBadcnt n) := by
  intro f hf
  cases f <;> simp_all [Field.same]

theorem sameExcept_setTx (b : Block) (m : Memory) (n : BitVec 4) : SameExcept [.txbuf, .txlen] b (b.setTx m n) := by
  intro f hf
  cases f <;> simp_all [Field.same]

theorem sameExcept_setRsp (b : Block) (x y z : Byte) :
    SameExcept [.rspAddr, .rspFunc, .rspBc] b (b.setRsp x y z) := by
  intro f hf
  cases f <;> simp_all [Field.same]

theorem sameExcept_setDok (b : Block) (x : Bool) : SameExcept [.dok] b (b.setDok x) := by
  intro f hf
  cases f <;> simp_all [Field.same]

theorem sameExcept_setValue (b : Block) (r : Half) (w : Word) : SameExcept [.raw, .value] b (b.setValue r w) := by
  intro f hf
  cases f <;> simp_all [Field.same]

theorem sameExcept_setBufidx (b : Block) (n : Len) : SameExcept [.bufidx] b (b.setBufidx n) := by
  intro f hf
  cases f <;> simp_all [Field.same]

theorem sameExcept_enterFault (s : State) (f : FaultCode) : SameExcept [.err] s.block (enterFault s f).block := by
  rw [enterFault_block]
  exact sameExcept_setErr _ _

end Sys2Proof.Machine
end

