-- ==== Sys2Proof/Laws/Exec.lean ====
section
/-! SUPPORT. What a command can do, said once for all eleven: it faults and writes ERR, or it has its effect on the block.
Later proofs cite `exec_next_cases` and `exec_of_inRange` and unfold no meaning. -/

namespace Sys2Proof.Machine

/-- The effect of a command that does not fault, on the block alone. -/
def effect (i : Instr) (b : Block) : Block :=
  match i with
  | .crcinit => b.setCrc Config.crcInit
  | .crcupd x => b.setCrc (crcByte b.crc x)
  | .crcbuf => b.setCrc (crc16 b.rx)
  | .verify => (b.setCrc (bodyCrc b.rx)).setV (checksumMatches b.rx (bodyCrc b.rx))
  | .validate =>
    if b.rxlen.toNat < Config.minFrame then b.setV false
    else (b.setCrc (bodyCrc b.rx)).setV (checksumMatches b.rx (bodyCrc b.rx))
  | .rxclr => b.setRx (Memory.holding .rx []) (lenOf 0)
  | .rxpush x => b.setRx (Memory.write .rx b.rxbuf b.rxlen.toNat x) (b.rxlen + lenOf 1)
  | .encode slave reg => b.setTx (Memory.writeSeq .tx b.txbuf 0 (encodeReadRequest slave reg)) 8#4
  | .extract => afterScan b (extractFrame b.rx)
  | .decode sgn => afterDecode b sgn (b.fByte 0) (b.fByte 1) (b.fByte 2) (b.fByte 3) (b.fByte 4)
  | .errclr => b.setErr 0#4

/-- With RXLEN within the receive buffer, a command raises its fault or has its effect. -/
theorem exec_of_inRange (i : Instr) {s : State} (h : RxInRange s.block) :
    exec i s = match faultOf i s.block with
      | some f => .next (enterFault s f)
      | none => .next (s.setBlock (effect i s.block)) := by
  cases i with
  | crcinit => rfl
  | crcupd b => rfl
  | crcbuf => exact withRx_of_inRange _ h
  | verify =>
    simp only [exec, execVerify, faultOf, effect, raise, withRx_of_inRange _ h]
    split <;> rfl
  | validate =>
    simp only [exec, execValidate, faultOf, effect, withRx_of_inRange _ h]
    split <;> rfl
  | rxclr => rfl
  | rxpush b =>
    simp only [exec, execRxpush, faultOf, effect, raise]
    split
    · rfl
    · rename_i hne
      have hle : s.block.rxlen.toNat ≤ Config.rxCap := h
      rw [writeAt_of_lt (show s.block.rxlen.toNat < Space.size .rx from by simp only [Space.size]; omega)]
      rfl
  | encode slave reg => rfl
  | extract => exact withRx_of_inRange _ h
  | decode sgn =>
    simp only [exec, execDecode, faultOf, effect, raise]
    by_cases hf : s.block.flen = 0#_
    · simp [hf]
    · have : s.block.flen.toNat ≠ 0 := fun h0 => hf (BitVec.eq_of_toNat_eq (by simpa using h0))
      simp [hf, this]
  | errclr => rfl

/-- What a command can do, when it answers a next state: nothing but ERR after a fault, its effect otherwise. -/
theorem exec_next_cases {i : Instr} {s t : State} (h : exec i s = .next t) :
    (∃ f, faultOf i s.block = some f ∧ t = enterFault s f) ∨
      (faultOf i s.block = none ∧ t = s.setBlock (effect i s.block)) := by
  by_cases hr : RxInRange s.block
  · rw [exec_of_inRange i hr] at h
    cases hf : faultOf i s.block with
    | some f =>
      simp only [hf, Host.Outcome.next.injEq] at h
      exact .inl ⟨f, rfl, h.symm⟩
    | none =>
      simp only [hf, Host.Outcome.next.injEq] at h
      exact .inr ⟨rfl, h.symm⟩
  · have hcap : Config.rxCap < s.block.rxlen.toNat := Nat.not_le.1 hr
    have hge := rxCap_ge
    cases i with
    | crcinit => exact .inr ⟨rfl, (Host.Outcome.next.inj h).symm⟩
    | crcupd b => exact .inr ⟨rfl, (Host.Outcome.next.inj h).symm⟩
    | crcbuf => simp [exec, execCrcbuf, withRx_of_outside _ hr] at h
    | verify => simp [exec, execVerify, withRx_of_outside _ hr, show ¬ s.block.rxlen.toNat < 2 by omega] at h
    | validate =>
      simp [exec, execValidate, withRx_of_outside _ hr, Config.minFrame, show ¬ s.block.rxlen.toNat < 7 by omega] at h
    | rxclr => exact .inr ⟨rfl, (Host.Outcome.next.inj h).symm⟩
    | rxpush b =>
      have hne : s.block.rxlen.toNat ≠ Config.rxCap := by omega
      simp [exec, execRxpush, hne, writeAt_of_ge (sp := .rx) (show Space.size .rx ≤ s.block.rxlen.toNat from hcap.le)] at h
    | encode slave reg => exact .inr ⟨rfl, (Host.Outcome.next.inj h).symm⟩
    | extract => simp [exec, execExtract, withRx_of_outside _ hr] at h
    | decode sgn =>
      by_cases hf : s.block.flen = 0#_
      · simp only [exec, execDecode, hf, if_true, raise, Host.Outcome.next.injEq] at h
        exact .inl ⟨.noframe, by simp [faultOf, hf], h.symm⟩
      · have h0 : s.block.flen.toNat ≠ 0 := fun h0 => hf (BitVec.eq_of_toNat_eq (by simpa using h0))
        simp only [exec, execDecode, hf, if_false, Host.Outcome.next.injEq] at h
        exact .inr ⟨by simp [faultOf, h0], h.symm⟩
    | errclr => exact .inr ⟨rfl, (Host.Outcome.next.inj h).symm⟩

/-- No command is refused. -/
theorem exec_not_refused (i : Instr) (s : State) (r : Refusal) : exec i s ≠ .refused r := by
  by_cases hr : RxInRange s.block
  · rw [exec_of_inRange i hr]
    cases faultOf i s.block <;> simp
  · cases i with
    | crcinit => simp [exec, execCrcinit]
    | crcupd b => simp [exec, execCrcupd]
    | crcbuf => simp [exec, execCrcbuf, withRx_of_outside _ hr]
    | verify =>
      simp only [exec, execVerify, withRx_of_outside _ hr, raise]
      split <;> simp
    | validate =>
      simp only [exec, execValidate, withRx_of_outside _ hr]
      split <;> simp
    | rxclr => simp [exec, execRxclr]
    | rxpush b =>
      simp only [exec, execRxpush, raise, writeAt]
      split
      · simp
      · split <;> simp
    | encode slave reg => simp [exec, execEncode]
    | extract => simp [exec, execExtract, withRx_of_outside _ hr]
    | decode sgn =>
      simp only [exec, execDecode, raise]
      split <;> simp
    | errclr => simp [exec, execErrclr]

/-- No command touches the host's side. -/
theorem exec_host {i : Instr} {s t : State} (h : exec i s = .next t) : t.host = s.host := by
  rcases exec_next_cases h with ⟨f, -, rfl⟩ | ⟨-, rfl⟩ <;> simp

end Sys2Proof.Machine
end

