-- ==== Sys2Proof/Laws/PerInstr.lean ====
section
/-! SUPPORT. A statement about every command as syntax: its word is the command of exactly its own row of the
match-and-mask table (30_encoding.md R76). -/

namespace Sys2Proof.Laws.EncodeHitsRow

/-- The word of the command hits its own row of the table and no other. -/
def Statement (i : Instr) : Prop :=
  ∀ r ∈ opTable, r.hit (encode i) = decide (r.mnemonic = mnemonicOf i)

/-- A word of format E has its opcode in bits 31:24. -/
theorem opField_wordE (op slave : Byte) (reg : Half) : opField (wordE op slave reg) = op := by
  apply BitVec.eq_of_getLsbD_eq
  intro i hi
  have h1 : ¬ 24 + i < 16 := by omega
  have h2 : ¬ 24 + i - 16 < 8 := by omega
  have h3 : 24 + i - 16 - 8 = i := by omega
  simp only [opField, wordE, BitVec.getLsbD_extractLsb', BitVec.getLsbD_append, h1, h2, h3, if_false]
  simp [hi]

/-- Every mask of the table covers the opcode, so a hit fixes it. -/
theorem opField_of_hit (r : OpRow) (h : r ∈ opTable) (w : Word) (hw : r.hit w = true) :
    opField w = opField r.pattern := by
  have hm : opField r.mask = BitVec.allOnes 8 := by
    have : ∀ r ∈ opTable, opField r.mask = BitVec.allOnes 8 := by decide
    exact this r h
  have : w &&& r.mask = r.pattern := by simpa [OpRow.hit] using hw
  rw [← this]
  unfold opField at *
  rw [BitVec.extractLsb'_and, hm, BitVec.and_allOnes]

theorem crcinit : Statement .crcinit := by unfold Statement; decide

theorem crcupd (b : Byte) : Statement (.crcupd b) := by
  have h : ∀ b : Byte, ∀ r ∈ opTable, r.hit (encode (.crcupd b)) = decide (r.mnemonic = mnemonicOf (.crcupd b)) := by
    decide +kernel
  exact h b

theorem crcbuf : Statement .crcbuf := by unfold Statement; decide

theorem verify : Statement .verify := by unfold Statement; decide

theorem validate : Statement .validate := by unfold Statement; decide

theorem rxclr : Statement .rxclr := by unfold Statement; decide

theorem rxpush (b : Byte) : Statement (.rxpush b) := by
  have h : ∀ b : Byte, ∀ r ∈ opTable, r.hit (encode (.rxpush b)) = decide (r.mnemonic = mnemonicOf (.rxpush b)) := by
    decide +kernel
  exact h b

theorem encode (slave : Byte) (reg : Half) : Statement (.encode slave reg) := by
  intro r hr
  by_cases h8 : opField r.pattern = 0x08#8
  · have hrow : r = ⟨"ENCODE", 0x08000000#32, 0xFF000000#32⟩ := by
      have : ∀ r ∈ opTable, opField r.pattern = 0x08#8 → r = ⟨"ENCODE", 0x08000000#32, 0xFF000000#32⟩ := by decide
      exact this r hr h8
    subst hrow
    suffices wordE 0x08#8 slave reg &&& 0xFF000000#32 = 0x08000000#32 by
      simpa [OpRow.hit, Sys2Proof.encode, mnemonicOf] using this
    apply BitVec.eq_of_getLsbD_eq
    intro i hi
    by_cases h16 : i < 16
    · have : (0xFF000000#32).getLsbD i = false ∧ (0x08000000#32).getLsbD i = false := by
        interval_cases i <;> decide
      simp [this]
    · by_cases h24 : i < 24
      · have : (0xFF000000#32).getLsbD i = false ∧ (0x08000000#32).getLsbD i = false := by
          interval_cases i <;> decide
        simp [this]
      · have h1 : ¬ i - 16 < 8 := by omega
        have : (0xFF000000#32).getLsbD i = true ∧ (0x08#8).getLsbD (i - 16 - 8) = (0x08000000#32).getLsbD i := by
          interval_cases i <;> decide
        simp only [BitVec.getLsbD_and, wordE, BitVec.getLsbD_append, h16, h1, if_false, this, Bool.and_true]
  · have hmn : r.mnemonic ≠ "ENCODE" := by
      have : ∀ r ∈ opTable, r.mnemonic = "ENCODE" → opField r.pattern = 0x08#8 := by decide
      exact fun h => h8 (this r hr h)
    have hno : r.hit (Sys2Proof.encode (.encode slave reg)) = false := by
      rw [← Bool.not_eq_true]
      intro hh
      have := opField_of_hit r hr _ hh
      rw [Sys2Proof.encode, opField_wordE] at this
      exact h8 this.symm
    simp [hno, mnemonicOf, hmn]

theorem extract : Statement .extract := by unfold Statement; decide

theorem decode (sgn : Bool) : Statement (.decode sgn) := by cases sgn <;> (unfold Statement; decide)

theorem errclr : Statement .errclr := by unfold Statement; decide

end Sys2Proof.Laws.EncodeHitsRow
end

