-- ==== Sys2Proof/Laws/Scan.lean ====
section
/-! SUPPORT. What the scan of a list of windows can return, said once: the first window that passes and the number before
it, or nothing and the number of all; and the laws of slices. -/

namespace Sys2Proof.Machine

@[simp] theorem scan_nil (bs : List Byte) : scan bs [] = (none, 0) := rfl

theorem scan_cons_pass {bs : List Byte} {w : Nat × Nat} (ws : List (Nat × Nat))
    (h : passes (slice bs w.1 w.2) = true) : scan bs (w :: ws) = (some w, 0) := by
  obtain ⟨s, e⟩ := w
  exact if_pos h

theorem scan_cons_fail {bs : List Byte} {w : Nat × Nat} (ws : List (Nat × Nat))
    (h : passes (slice bs w.1 w.2) = false) : scan bs (w :: ws) = ((scan bs ws).1, (scan bs ws).2 + 1) := by
  obtain ⟨s, e⟩ := w
  simp only at h
  simp only [scan, h]
  rfl

/-- Windows that all fail count one each. -/
theorem scan_append_fail {bs : List Byte} (ws vs : List (Nat × Nat))
    (h : ∀ w ∈ ws, passes (slice bs w.1 w.2) = false) :
    scan bs (ws ++ vs) = ((scan bs vs).1, (scan bs vs).2 + ws.length) := by
  induction ws with
  | nil => simp
  | cons w ws ih =>
    rw [List.cons_append, scan_cons_fail _ (h w (by simp)), ih fun v hv => h v (List.mem_cons_of_mem _ hv)]
    simp [Nat.add_assoc]

/-- What a scan can return (43_frame_extract.md R143). -/
theorem scan_cases (bs : List Byte) (ws : List (Nat × Nat)) :
    (∃ pre w post, ws = pre ++ w :: post ∧ (∀ v ∈ pre, passes (slice bs v.1 v.2) = false) ∧
      passes (slice bs w.1 w.2) = true ∧ scan bs ws = (some w, pre.length)) ∨
    ((∀ v ∈ ws, passes (slice bs v.1 v.2) = false) ∧ scan bs ws = (none, ws.length)) := by
  induction ws with
  | nil => exact .inr ⟨by simp, rfl⟩
  | cons w ws ih =>
    cases hw : passes (slice bs w.1 w.2) with
    | true => exact .inl ⟨[], w, ws, rfl, by simp, hw, scan_cons_pass ws hw⟩
    | false =>
      rw [scan_cons_fail ws hw]
      rcases ih with ⟨pre, v, post, rfl, hpre, hv, hs⟩ | ⟨hall, hs⟩
      · exact .inl ⟨w :: pre, v, post, rfl, by simpa [hw] using hpre, hv, by rw [hs]; rfl⟩
      · exact .inr ⟨by simpa [hw] using hall, by rw [hs]; rfl⟩

/-- A window that passes, after windows that all fail, is what the scan returns. -/
theorem scan_of_first {bs : List Byte} {w : Nat × Nat} (pre post : List (Nat × Nat))
    (hpre : ∀ v ∈ pre, passes (slice bs v.1 v.2) = false) (hw : passes (slice bs w.1 w.2) = true) :
    scan bs (pre ++ w :: post) = (some w, pre.length) := by
  rw [scan_append_fail _ _ hpre, scan_cons_pass post hw]
  simp

/-! ### Slices -/

theorem slice_length {bs : List Byte} {a b : Nat} (h : b ≤ bs.length) : (slice bs a b).length = b - a := by
  simp only [slice, List.length_take, List.length_drop]
  omega

theorem slice_zero (bs : List Byte) (b : Nat) : slice bs 0 b = bs.take b := by simp [slice]

theorem slice_getElem? (bs : List Byte) (a b i : Nat) :
    (slice bs a b)[i]? = if i < b - a then bs[a + i]? else none := by
  unfold slice
  split
  · rename_i h
    rw [List.getElem?_take_of_lt h, List.getElem?_drop]
  · rename_i h
    rw [List.getElem?_take_eq_none (Nat.not_lt.1 h)]

/-- A window one byte longer. -/
theorem slice_succ {bs : List Byte} {a b : Nat} (hab : a ≤ b) (h : b < bs.length) :
    slice bs a (b + 1) = slice bs a b ++ [bs[b]] := by
  unfold slice
  rw [Nat.succ_sub hab, List.take_add_one, List.getElem?_drop, show a + (b - a) = b by omega, List.getElem?_eq_getElem h]
  rfl

/-- A buffer is the bytes before a window, the window, and the suffix after it. -/
theorem take_slice_drop {bs : List Byte} {a b : Nat} (h : a ≤ b) :
    bs.take a ++ slice bs a b ++ bs.drop b = bs := by
  unfold slice
  rw [List.append_assoc]
  have : (bs.drop a).take (b - a) ++ bs.drop b = bs.drop a := by
    rw [show bs.drop b = (bs.drop a).drop (b - a) by rw [List.drop_drop]; congr 1; omega]
    exact List.take_append_drop _ _
  rw [this, List.take_append_drop]

/-- A slice inside the middle part of a buffer. -/
theorem slice_middle (pre mid post : List Byte) :
    slice (pre ++ mid ++ post) pre.length (pre.length + mid.length) = mid := by
  simp [slice]

end Sys2Proof.Machine
end

