-- ==== Sys2Proof/Laws/Step.lean ====
section
/-! SUPPORT. What a step can do, said once: the six things a host action brings about. -/

namespace Sys2Proof.Machine

/-- An access that has a meaning is of a whole word, aligned, inside the map. -/
theorem accessProblem_none_iff (off size : Nat) :
    accessProblem off size = none ↔ size = 4 ∧ off % 4 = 0 ∧ off < Config.mapSpan := by
  unfold accessProblem
  split
  · simp_all
  · split
    · simp_all
    · split <;> simp_all

/-- The checks of WellFormed and of the register map agree. -/
theorem accessDefined_iff (off size : Nat) : accessDefined off size = true ↔ accessProblem off size = none := by
  rw [accessProblem_none_iff]
  simp [accessDefined, and_assoc]

/-- What a command word can do. -/
theorem issue_next_cases {s t : State} {w : Word} (h : issue s w = .next t) :
    (∃ i, decode w = .ok i ∧ exec i s = .next t) ∨ ((∃ e, decode w = .error e) ∧ t = enterFault s .illcmd) := by
  unfold issue at h
  split at h
  · rename_i i hi
    exact .inl ⟨i, hi, h⟩
  · rename_i e he
    exact .inr ⟨⟨e, he⟩, (Host.Outcome.next.inj h).symm⟩

/-- What one action of the host can do, when it answers a next state. -/
theorem perform_next_cases {a : HostAction} {s t : State} (h : perform a s = .next t) :
    (a = .reset ∧ t = s.setBlock Block.reset) ∨
    (∃ off w d, a = .read off 4 ∧ t = s.setHost (s.host.answer w d)) ∨
    (∃ off w, a = .write off 4 w ∧
      (issue s w = .next t ∨ t = s.setBlock (s.block.setBufidx (w.setWidth Config.wLen)) ∨ t = s)) := by
  cases a with
  | reset => exact .inl ⟨rfl, (Host.Outcome.next.inj h).symm⟩
  | read off size =>
    unfold perform at h
    cases hp : accessProblem off size with
    | some r => simp [hp] at h
    | none =>
      obtain ⟨rfl, -, -⟩ := (accessProblem_none_iff off size).1 hp
      simp only [hp] at h
      cases hr : regAt off with
      | none =>
        simp only [hr] at h
        exact .inr (.inl ⟨off, _, _, rfl, (Host.Outcome.next.inj h).symm⟩)
      | some r =>
        simp only [hr, readReg] at h
        cases hw : regWord s.block (Config.freeByte s.host.draws) r with
        | error f => simp [hw] at h
        | ok w =>
          simp only [hw, access_ok] at h
          exact .inr (.inl ⟨off, w, _, rfl, (Host.Outcome.next.inj h).symm⟩)
  | write off size w =>
    unfold perform at h
    cases hp : accessProblem off size with
    | some r => simp [hp] at h
    | none =>
      obtain ⟨rfl, -, -⟩ := (accessProblem_none_iff off size).1 hp
      simp only [hp] at h
      refine .inr (.inr ⟨off, w, rfl, ?_⟩)
      unfold writeReg at h
      split at h
      · exact .inl h
      · exact .inr (.inl (Host.Outcome.next.inj h).symm)
      · exact .inr (.inr (Host.Outcome.next.inj h).symm)

/-- What a step can do: hold the state, or perform the oldest action of the host. -/
theorem step_cases (s : State) :
    (s.host.pending = [] ∧ step s = .next s) ∨
      (∃ a as, s.host.pending = a :: as ∧ step s = perform a (s.setHost (s.host.rest as))) := by
  unfold step stepHost
  cases h : s.host.pending with
  | nil => exact .inl ⟨rfl, rfl⟩
  | cons a as => exact .inr ⟨a, as, rfl, rfl⟩

/-- What a step does to the block: nothing, the reset values, a command's effect, a fault's write of ERR, or a write of
BUFIDX. -/
theorem step_block_cases {s t : State} (h : step s = .next t) :
    t.block = s.block ∨ t.block = Block.reset ∨ (∃ n, t.block = s.block.setBufidx n) ∨
      (∃ f, t.block = s.block.setErr (errAfter s.block.err (FaultCode.code f))) ∨
      (∃ i, faultOf i s.block = none ∧ t.block = effect i s.block) := by
  rcases step_cases s with ⟨-, h'⟩ | ⟨a, as, -, h'⟩
  · rw [h'] at h
    exact .inl (by rw [← Host.Outcome.next.inj h])
  · rw [h'] at h
    rcases perform_next_cases h with ⟨-, rfl⟩ | ⟨off, w, d, -, rfl⟩ | ⟨off, w, -, hi | rfl | rfl⟩
    · exact .inr (.inl rfl)
    · exact .inl rfl
    · rcases issue_next_cases hi with ⟨i, -, he⟩ | ⟨-, rfl⟩
      · rcases exec_next_cases he with ⟨f, -, rfl⟩ | ⟨hf, rfl⟩
        · exact .inr (.inr (.inr (.inl ⟨f, by rw [enterFault_block]; rfl⟩)))
        · exact .inr (.inr (.inr (.inr ⟨i, hf, rfl⟩)))
      · exact .inr (.inr (.inr (.inl ⟨.illcmd, by rw [enterFault_block]; rfl⟩)))
    · exact .inr (.inr (.inl ⟨_, rfl⟩))
    · exact .inl rfl

end Sys2Proof.Machine
end

