-- ==== Sys2Proof/Tests/Slice0.lean ====
section
/-! SUPPORT. Tests: the checks of WellFormed refuse, words decode as 95_test_vectors.md VW says, one step per command on
small states with the results of 95_test_vectors.md, and for every obligation with hypotheses a state and operands that
meet them. -/

namespace Sys2Proof.Machine.Tests

/-! ### States -/

/-- After reset, with the bytes `bs` in RX. -/
def withBytes (bs : List Byte) : State :=
  State.reset.setBlock (State.reset.block.setRx (Memory.holding .rx bs) (lenOf bs.length))

/-- After reset, with the frame `bs` in F. -/
def withFrame (bs : List Byte) : State :=
  State.reset.setBlock (State.reset.block.setFrame true (Memory.holding .f bs) (lenOf bs.length) (lenOf 0))

/-- After reset, with a full receive buffer of 0x00 bytes. -/
def full : State :=
  State.reset.setBlock (State.reset.block.setRx ((List.range Config.rxCap).map fun a => (a, 0x00#8)) (lenOf Config.rxCap))

/-- After reset, with one action of the host to come. -/
def withAction (a : HostAction) : State := State.reset.withPending [a]

/-- The outcome is a next state with the property. -/
def nextHas (o : Host.Outcome State Fault Refusal) (p : State → Bool) : Bool :=
  match o with
  | .next t => p t
  | .fault _ => false
  | .refused _ => false

/-- The response of 43_frame_extract.md R144's example. -/
def response : List Byte := [0x01#8, 0x03#8, 0x02#8, 0x12#8, 0x34#8, 0xB5#8, 0x33#8]

/-- The message of 95_test_vectors.md S1. -/
def message : List Byte := [0x1A#8, 0x03#8, 0x00#8, 0x0A#8, 0x00#8, 0x01#8]

/-! ### WellFormed refuses -/

/-- 30_encoding.md R74 (a): opcode 0x0C. -/
theorem test_wordLegal_refuses_opcode : wordLegal 0x0C000000#32 = false := by decide

/-- R74 (b). -/
theorem test_wordLegal_refuses_reservedN : wordLegal 0x0B800000#32 = false := by decide

/-- R74 (c). -/
theorem test_wordLegal_refuses_reservedB : wordLegal 0x07010000#32 = false := by decide

/-- R74 (d). -/
theorem test_wordLegal_refuses_reservedS : wordLegal 0x0A000003#32 = false := by decide

/-- 30_encoding.md R84: a byte of 256, and a negative one. -/
theorem test_wellFormed_refuses_byte :
    AsmLine.wellFormed (.crcupd 256) = false ∧ AsmLine.wellFormed (.rxpush (-1)) = false ∧
      AsmLine.wellFormed (.rxpushn [1, 256]) = false := by decide

/-- R84: a slave of 256, and a negative register. -/
theorem test_wellFormed_refuses_encode :
    AsmLine.wellFormed (.encode 256 0) = false ∧ AsmLine.wellFormed (.encode 1 (-1)) = false := by decide

/-- A `.word` of 33 bits. -/
theorem test_wellFormed_refuses_word : AsmLine.wellFormed (.word 0x100000000) = false := by decide

/-- 20_memory.md R55: a byte access, a misaligned one; R58: the first offset above the map. -/
theorem test_accessDefined_refuses :
    accessDefined 0x04 1 = false ∧ accessDefined 0x02 4 = false ∧ accessDefined 0x58 4 = false := by decide

/-! ### Decoding: words written from 30_encoding.md R71 and R72, and 95_test_vectors.md VW -/

theorem test_decode_crc_engine :
    decode 0x01000000#32 = .ok .crcinit ∧ decode 0x020000FF#32 = .ok (.crcupd 0xFF#8) ∧
      decode 0x03000000#32 = .ok .crcbuf ∧ decode 0x04000000#32 = .ok .verify := by decide

theorem test_decode_rx_buffer :
    decode 0x06000000#32 = .ok .rxclr ∧ decode 0x07000000#32 = .ok (.rxpush 0x00#8) ∧
      decode 0x070000A5#32 = .ok (.rxpush 0xA5#8) := by decide

theorem test_decode_frame_encode :
    decode 0x081A000A#32 = .ok (.encode 0x1A#8 0x000A#16) ∧ decode 0x08FFFFFF#32 = .ok (.encode 0xFF#8 0xFFFF#16) ∧
      decode 0x08000000#32 = .ok (.encode 0x00#8 0x0000#16) := by decide

theorem test_decode_frame_extract :
    decode 0x05000000#32 = .ok .validate ∧ decode 0x09000000#32 = .ok .extract := by decide

theorem test_decode_response_decode :
    decode 0x0A000000#32 = .ok (.decode false) ∧ decode 0x0A000001#32 = .ok (.decode true) := by decide

theorem test_decode_system : decode 0x0B000000#32 = .ok .errclr := by decide

theorem test_decode_illegal :
    decode 0x00000000#32 = .error .opcode ∧ decode 0x0C000000#32 = .error .opcode ∧
      decode 0xFFFFFFFF#32 = .error .opcode ∧ decode 0x01000001#32 = .error .reservedN ∧
      decode 0x02000100#32 = .error .reservedB ∧ decode 0x0A000002#32 = .error .reservedS := by decide

/-- The host's numbering of a row's bits is that of the word, a command being one 32-bit word (30_encoding.md R70). -/
theorem test_decodeTableWord :
    decodeTableWord 32 0x081A000A = some (.encode 0x1A#8 0x000A#16) ∧ decodeTableWord 32 0x0A000002 = none := by decide

/-- The next step runs the word (10_state.md R36; log 2). -/
theorem test_withFetchWord :
    nextHas (step (State.reset.withFetchWord 32 0x0200001A)) (fun t => t.block.crc == 0x8B3E#16) = true := by decide

/-! ### One step per command: the examples of the command rules and of 95_test_vectors.md -/

/-- 40_crc_engine.md R106. -/
theorem test_crcinit :
    nextHas (exec .crcinit (State.reset.setBlock (State.reset.block.setCrc 0x1234#16)))
      (fun t => t.block.crc == 0xFFFF#16) = true := by decide

/-- 95_test_vectors.md VC. -/
theorem test_crcupd :
    nextHas (exec (.crcupd 0x56#8) (State.reset.setBlock (State.reset.block.setCrc 0x1234#16)))
      (fun t => t.block.crc == 0xE993#16) = true := by decide

/-- 40_crc_engine.md R108. -/
theorem test_crcbuf :
    nextHas (exec .crcbuf (withBytes message)) (fun t => t.block.crc == 0xE3A7#16 && t.block.rx == message) = true := by
  decide +kernel

/-- 40_crc_engine.md R109, both examples. -/
theorem test_verify_true :
    nextHas (exec .verify (withBytes (message ++ [0xA7#8, 0xE3#8])))
      (fun t => t.block.v && t.block.crc == 0xE3A7#16) = true := by decide +kernel

theorem test_verify_false :
    nextHas (exec .verify (withBytes (message ++ [0xA7#8, 0xE2#8])))
      (fun t => !t.block.v && t.block.crc == 0xE3A7#16) = true := by decide +kernel

/-- 43_frame_extract.md R141, both examples. -/
theorem test_validate_true :
    nextHas (exec .validate (withBytes response)) (fun t => t.block.v && t.block.crc == 0x33B5#16) = true := by
  decide +kernel

theorem test_validate_below_floor :
    nextHas (exec .validate (withBytes [0xFF#8, 0xFF#8])) (fun t => !t.block.v && t.block.crc == 0xFFFF#16) = true := by
  decide

/-- 41_rx_buffer.md R120. -/
theorem test_rxclr :
    nextHas (exec .rxclr (withBytes response)) (fun t => t.block.rxlen.toNat == 0 && t.block.rx == []) = true := by decide

/-- 95_test_vectors.md VB1. -/
theorem test_rxpush :
    nextHas (exec (.rxpush 0xAA#8) (withBytes [0xFF#8, 0x00#8]))
      (fun t => t.block.rx == [0xFF#8, 0x00#8, 0xAA#8] && t.block.rxlen.toNat == 3) = true := by decide

/-- 95_test_vectors.md VB6: the buffer is full, the byte is dropped. -/
theorem test_rxpush_overflow :
    nextHas (exec (.rxpush 0xEE#8) full) (fun t => t.block.err == 2#4 && t.block.rxlen == full.block.rxlen) = true := by
  decide

/-- 95_test_vectors.md VE2. -/
theorem test_encode :
    nextHas (exec (.encode 0x1A#8 0x000A#16) State.reset)
      (fun t => t.block.tx == message ++ [0xA7#8, 0xE3#8] && t.block.txlen == 8#4) = true := by decide +kernel

/-- 95_test_vectors.md VE3: the largest legal operands. -/
theorem test_encode_largest :
    nextHas (exec (.encode 0xF7#8 0xFFFF#16) State.reset)
      (fun t => t.block.tx == [0xF7#8, 0x03#8, 0xFF#8, 0xFF#8, 0x00#8, 0x01#8, 0x90#8, 0xB8#8]) = true := by decide +kernel

/-- 43_frame_extract.md R144. -/
theorem test_extract :
    nextHas (exec .extract (withBytes ([0xFF#8, 0x00#8, 0xAA#8] ++ response ++ [0x55#8, 0x66#8])))
      (fun t => t.block.found && t.block.frame == response && t.block.fstart.toNat == 3 &&
        t.block.rx == [0x55#8, 0x66#8] && t.block.badcnt == 15#32) = true := by decide +kernel

/-- 43_frame_extract.md R149 (c). -/
theorem test_extract_trailing_zero :
    nextHas (exec .extract (withBytes [0x01#8, 0x03#8, 0x00#8, 0x21#8, 0x00#8, 0x01#8, 0xD4#8, 0x00#8]))
      (fun t => t.block.flen.toNat == 7 && t.block.rx == [0x00#8] && t.block.badcnt == 0#32) = true := by decide +kernel

/-- 44_response_decode.md R161. -/
theorem test_decode_signed :
    nextHas (exec (.decode true) (withFrame [0x01#8, 0x03#8, 0x02#8, 0x80#8, 0x00#8, 0xD9#8, 0x84#8]))
      (fun t => t.block.dok && t.block.raw == 0x8000#16 && t.block.value == 0xFFFF8000#32 && t.block.rspBc == 0x02#8) =
        true := by decide

/-- 44_response_decode.md R163: a request's echo whose byte 2 is not 2 is the outcome DOK = 0. -/
theorem test_decode_wrong_byte_count :
    nextHas (exec (.decode false) (withFrame [0x01#8, 0x03#8, 0x00#8, 0x00#8, 0x00#8, 0x01#8, 0x84#8, 0x0A#8]))
      (fun t => !t.block.dok && t.block.rspAddr == 0x01#8 && t.block.value == 0#32 && t.block.err == 0#4) = true := by decide

/-- 45_system.md R170. -/
theorem test_errclr :
    nextHas (exec .errclr (State.reset.setBlock (State.reset.block.setErr 3#4))) (fun t => t.block.err == 0#4) = true := by
  decide

/-- 60_exceptions.md R182: legality first; the word raises ILLCMD although no frame is held. -/
theorem test_illegal_first :
    nextHas (issue State.reset 0x0A000002#32) (fun t => t.block.err == 1#4) = true := by decide

/-! ### The host's side -/

/-- 41_rx_buffer.md R123, 95_test_vectors.md VB: byte 2 of RX read out. -/
theorem test_read_rxdata :
    nextHas (perform (.read 0x50 4)
        ((withBytes [0xFF#8, 0x00#8, 0xAA#8]).setBlock ((withBytes [0xFF#8, 0x00#8, 0xAA#8]).block.setBufidx (lenOf 2))))
      (fun t => t.host.replies == [0x000000AA#32]) = true := by decide

/-- 10_state.md R33: bits 31:11 of a write of BUFIDXR are dropped. -/
theorem test_write_bufidx :
    nextHas (perform (.write 0x4C 4 0xFFFFF803#32) State.reset) (fun t => t.block.bufidx.toNat == 3) = true := by decide

/-- 30_encoding.md R83, R84: the register is kept modulo 65536, and comments are dropped. -/
theorem test_assembleText :
    assembleText "ENCODE 1, 0x10000 ; comment\nDECODE S" = .ok [0x08010000#32, 0x0A000001#32] := by decide +kernel

/-- 30_encoding.md R83: a number is decimal or hexadecimal. -/
theorem test_number :
    natural "209".toList = some 209 ∧ natural "0x1aF".toList = some 0x1AF ∧ natural "1A".toList = none ∧
      natural "0xG".toList = none := by decide +kernel

/-- 30_encoding.md R85. -/
theorem test_assemble_verifyf :
    assembleText "VERIFYF 0xFF, 255" = .ok [0x06000000#32, 0x070000FF#32, 0x070000FF#32, 0x04000000#32] := by decide +kernel

/-! ### Witnesses: a state and operands that meet the hypotheses of each obligation -/

theorem witness_EncodeDecodeRoundTrip : decode 0x08FFFFFF#32 = .ok (.encode 0xFF#8 0xFFFF#16) := by decide

theorem witness_IllegalWordsRaiseIllcmd :
    (∃ e, decode 0x0C000000#32 = .error e) ∧ (0x08FFFFFF#32).toNat / 2 ^ 24 = 0x08 := ⟨⟨.opcode, by decide⟩, by decide⟩

theorem witness_MatchAndMaskDecide : ∀ r ∈ opTable, (0x02000100#32 : Word) &&& r.mask ≠ r.pattern := by decide

theorem witness_OperandsAreFieldsOfTheWord :
    decode 0x020000FF#32 = .ok (.crcupd 0xFF#8) ∧ decode 0x07000000#32 = .ok (.rxpush 0x00#8) ∧
      decode 0x08FF0000#32 = .ok (.encode 0xFF#8 0x0000#16) ∧ decode 0x0A000001#32 = .ok (.decode true) := by decide

theorem witness_PseudoInstructionsExpand : ∀ b ∈ ([0, 255] : List Int), 0 ≤ b ∧ b ≤ 255 := by decide

theorem witness_CrcRoundShiftsRight : (0x0001#16).toNat % 2 = 1 ∧ (0x8000#16).toNat % 2 = 0 := by decide

theorem witness_VerifyComparesTrailingBytes : ([0xFF#8] : List Byte).length < 2 := by decide

theorem witness_CrcByteTableForm : crcHi (crcTab 0x01#8) = crcHi (crcTab 0x01#8) := rfl

theorem witness_VerifyIffResidueZero : 2 ≤ ([0xFF#8, 0xFF#8] : List Byte).length := by decide

theorem witness_VerifyZeroExtension : 2 ≤ ([0xFF#8, 0xFF#8] : List Byte).length := by decide

theorem witness_CrcByteOneToOne : crcByte 0x0001#16 0x00#8 = crcByte 0x0001#16 0x00#8 := rfl

/-- The last bit of the last byte of a valid frame. -/
theorem witness_SingleBitFlipsFailVerify :
    verify [0xFF#8, 0xFF#8] = some true ∧ 1 < ([0xFF#8, 0xFF#8] : List Byte).length ∧ 7 < 8 := by decide

/-- For every opcode with reserved bits a word with the lowest or the highest of them set: FormatNFaults, FormatBFaults,
FormatSFaults, as the statements of the eleven commands use them. -/
theorem witness_FormatFaults :
    (∀ w ∈ ([0x01000001, 0x03800000, 0x04000001, 0x05800000, 0x06000001, 0x09800000, 0x0B000001] : List Nat),
      w / 2 ^ 24 ∈ [0x01, 0x03, 0x04, 0x05, 0x06, 0x09, 0x0B] ∧ w % 2 ^ 24 ≠ 0) ∧
      (∀ w ∈ ([0x02000100, 0x07800000] : List Nat), w / 2 ^ 24 ∈ [0x02, 0x07] ∧ w / 2 ^ 8 % 2 ^ 16 ≠ 0) ∧
      (∀ w ∈ ([0x0A000002, 0x0A800000] : List Nat), w / 2 ^ 24 = 0x0A ∧ w / 2 % 2 ^ 23 ≠ 0) := by decide

/-- An empty buffer, a full one, and one that holds a valid frame. -/
theorem witness_CrcbufComputesReceiveBuffer :
    (RxInRange State.reset.block ∧ State.reset.block.rxlen.toNat = 0) ∧ RxInRange full.block ∧
      (RxInRange (withBytes response).block ∧ verify (withBytes response).block.rx = some true) := by
  unfold RxInRange
  decide +kernel

theorem witness_VerifySetsVAndCrc :
    (withBytes [0xFF#8]).block.rxlen.toNat < 2 ∧
      (RxInRange (withBytes [0xFF#8, 0xFF#8]).block ∧ 2 ≤ (withBytes [0xFF#8, 0xFF#8]).block.rxlen.toNat) := by
  unfold RxInRange
  decide

/-- Two bytes; a valid frame and one more byte, before it or after it. -/
theorem witness_VerifySetsVAndCrc_junk :
    ((withBytes [0xFF#8, 0xFF#8]).block.rx = [0xFF#8, 0xFF#8] ∧ ∃ t, exec .verify (withBytes [0xFF#8, 0xFF#8]) = .next t) ∧
      verify [0xFF#8, 0xFF#8] = some true ∧
      ((withBytes [0xFF#8, 0xFF#8, 0x00#8]).block.rx = [0xFF#8, 0xFF#8] ++ [0x00#8] ∧
        ∃ t, exec .verify (withBytes [0xFF#8, 0xFF#8, 0x00#8]) = .next t) ∧
      ((withBytes [0x01#8, 0xFF#8, 0xFF#8]).block.rx = 0x01#8 :: [0xFF#8, 0xFF#8] ∧
        ∃ t, exec .verify (withBytes [0x01#8, 0xFF#8, 0xFF#8]) = .next t) :=
  ⟨⟨by decide, _, rfl⟩, by decide, ⟨by decide, _, rfl⟩, ⟨by decide, _, rfl⟩⟩

/-- A full buffer, and one with room for one byte. -/
theorem witness_RxpushAppendsOneByte :
    full.block.rxlen.toNat = Config.rxCap ∧
      (full.setBlock (full.block.setRx full.block.rxbuf (lenOf 1023))).block.rxlen.toNat < Config.rxCap := by decide

/-- Two chunks that just fill the buffer, and two of which the last byte finds it full. -/
theorem witness_ChunksAppendInOrder :
    (RxInRange (full.block.setRx full.block.rxbuf (lenOf 1022)) ∧
      (full.block.setRx full.block.rxbuf (lenOf 1022)).rxlen.toNat +
        ([0x01#8] : List Byte).length + ([0x02#8] : List Byte).length ≤ Config.rxCap) ∧
      (RxInRange (full.block.setRx full.block.rxbuf (lenOf 1023)) ∧
        Config.rxCap < (full.block.setRx full.block.rxbuf (lenOf 1023)).rxlen.toNat +
          ([0x01#8] : List Byte).length + ([0x02#8] : List Byte).length) := by
  unfold RxInRange
  decide

theorem witness_EncodeBuildsRequest : (0x08000000#32).toNat / 2 ^ 24 = 0x08 := by decide

theorem witness_RequestsVerifyAndDiffer :
    encodeReadRequest 0x01#8 0x0021#16 = encodeReadRequest 0x01#8 0x0021#16 := rfl

theorem witness_ValidateFrameHasFloor : ([] : List Byte).length < 7 := by decide

/-- Six bytes, and seven. -/
theorem witness_ValidateSetsV :
    (RxInRange (withBytes message).block ∧ (withBytes message).block.rxlen.toNat < 7) ∧
      (RxInRange (withBytes response).block ∧ 7 ≤ (withBytes response).block.rxlen.toNat) := by
  unfold RxInRange
  decide

theorem witness_WindowsInScanOrder : 6 < 7 ∧ 7 ≤ 7 := by decide

/-- A buffer with a frame, one without, and one below the floor. -/
theorem witness_ExtractFrameTakesFirstWindow :
    (extractFrame response).1 = some ⟨0, 7, response, []⟩ ∧
      (extractFrame (message ++ [0x00#8])).1 = none ∧ message.length < 7 := by decide +kernel

/-- EXTRACT with a frame, and without. -/
theorem witness_ExtractMovesFrameAndSuffix :
    (RxInRange (withBytes response).block ∧
      (extractFrame (withBytes response).block.rx).1 = some ⟨0, 7, response, []⟩) ∧
      (RxInRange State.reset.block ∧ (extractFrame State.reset.block.rx).1 = none) := by
  unfold RxInRange
  decide +kernel

theorem witness_BadcntCountsFailedWindows :
    (RxInRange State.reset.block ∧ State.reset.block.rxlen.toNat < 7 ∧ ∃ t, exec .extract State.reset = .next t) ∧
      (RxInRange (withBytes response).block ∧ 7 ≤ (withBytes response).block.rxlen.toNat ∧
        nextHas (exec .extract (withBytes response)) (fun t => t.block.found) = true) ∧
      (7 ≤ (withBytes (message ++ [0x00#8])).block.rxlen.toNat ∧
        nextHas (exec .extract (withBytes (message ++ [0x00#8]))) (fun t => !t.block.found) = true) :=
  ⟨⟨by unfold RxInRange; decide, by decide, _, rfl⟩, ⟨by unfold RxInRange; decide, by decide, by decide +kernel⟩,
    ⟨by decide, by decide +kernel⟩⟩

/-- Two states that differ in ERR and hold the same bytes. -/
theorem witness_ExtractDependsOnReceiveBufferAlone :
    RxInRange (withBytes message).block ∧
      ((withBytes message).setBlock ((withBytes message).block.setErr 3#4)).block.rx = (withBytes message).block.rx ∧
      (∃ t, exec .extract (withBytes message) = .next t) ∧
      ∃ v, exec .extract ((withBytes message).setBlock ((withBytes message).block.setErr 3#4)) = .next v :=
  ⟨by unfold RxInRange; decide, by decide, ⟨_, rfl⟩, ⟨_, rfl⟩⟩

/-- A buffer from which a frame of 8 bytes is returned (95_test_vectors.md S2); and the request of slave 1, register 0x0021,
which is its first seven bytes and a 0x00 (43_frame_extract.md R149 (c)). -/
theorem witness_TrailingZeroIsLeftBehind :
    (extractFrame (message ++ [0xA7#8, 0xE3#8])).1 = some ⟨0, 8, message ++ [0xA7#8, 0xE3#8], []⟩ ∧
      8 ≤ (message ++ [0xA7#8, 0xE3#8]).length ∧
      7 ≤ ([0x01#8, 0x03#8, 0x00#8, 0x21#8, 0x00#8, 0x01#8, 0xD4#8] : List Byte).length ∧
      verify ([0x01#8, 0x03#8, 0x00#8, 0x21#8, 0x00#8, 0x01#8, 0xD4#8] ++ [0x00#8]) = some true := by decide +kernel

/-- A request whose last byte is not 0x00, and one whose last byte is (42_frame_encode.md R133 (d)). -/
theorem witness_RequestRoundTripRestricted :
    crcHi (crc16 (requestBody 0x01#8 0x0000#16)) ≠ 0x00#8 ∧ crcHi (crc16 (requestBody 0x01#8 0x0021#16)) = 0x00#8 := by
  decide +kernel

/-- A buffer of seven bytes has one window. -/
theorem witness_ScanOrdersAgreeOnOneWindow :
    ∀ x y, IsWindow response.length x → IsWindow response.length y →
      verify (slice response x.1 x.2) = some true → verify (slice response y.1 y.2) = some true → x = y := by
  intro x y hx hy _ _
  have h7 : response.length = 7 := rfl
  unfold IsWindow Config.minFrame at hx hy
  apply Prod.ext <;> omega

theorem witness_DecodeResponseReadsTwoBytes :
    2 ≤ ([0x00#8, 0x00#8] : List Byte).length ∧ (0x03#8).toNat ≠ 2 ∧ (0x02#8).toNat = 2 := by decide

/-- No frame; a frame with byte count 2; a frame with another one. -/
theorem witness_DecodeLoadsResponseRegisters :
    State.reset.block.flen.toNat = 0 ∧
      ((withFrame response).block.flen.toNat ≠ 0 ∧ (withFrame response).block.fByte 2 = 0x02#8 ∧
        7 ≤ (withFrame response).block.flen.toNat) ∧
      ((withFrame (message ++ [0x00#8])).block.flen.toNat ≠ 0 ∧ (withFrame (message ++ [0x00#8])).block.fByte 2 ≠ 0x02#8) := by
  decide

theorem witness_ResponseAloneDecodes :
    (withBytes response).block.rx =
      [0x01#8, 0x03#8, 0x02#8, 0x12#8, 0x34#8] ++ checksum [0x01#8, 0x03#8, 0x02#8, 0x12#8, 0x34#8] := by decide +kernel

theorem witness_ErrclrClearsErr :
    ((0x0B800000#32).toNat / 2 ^ 24 = 0x0B ∧ (0x0B800000#32).toNat % 2 ^ 24 ≠ 0 ∧
      ∃ t, issue State.reset 0x0B800000#32 = .next t) ∧
      State.reset.block.err = 0#4 ∧ (State.reset.setBlock (State.reset.block.setErr 3#4)).block.err ≠ 0#4 :=
  ⟨⟨by decide, by decide, _, rfl⟩, by decide, by decide⟩

/-- Each fault of a legal command, and ERR changed by one. -/
theorem witness_FaultsRecordTheFirstCode :
    (∃ e, decode 0x00000000#32 = .error e) ∧ faultOf (.rxpush 0x00#8) full.block = some .rxovf ∧
      faultOf .verify State.reset.block = some .short ∧ faultOf (.decode true) State.reset.block = some .noframe ∧
      nextHas (exec .verify State.reset) (fun t => decide (t.block.err ≠ State.reset.block.err)) = true :=
  ⟨⟨.opcode, by decide⟩, by decide, by decide, by decide, by decide⟩

theorem witness_RecordedFaultBlocksNothing : ∃ t, exec .validate State.reset = .next t := ⟨_, rfl⟩

/-- A command without a fault, and one with. -/
theorem witness_CommandsWriteOnlyTheirFields :
    ((∃ t, exec .crcinit State.reset = .next t) ∧ mnemonicOf .crcinit ∉ writtenBy .err ∧
      faultOf .crcinit State.reset.block = none) ∧
      (∃ t, exec .verify State.reset = .next t) ∧ faultOf .verify State.reset.block = some .short :=
  ⟨⟨⟨_, rfl⟩, by decide, rfl⟩, ⟨_, rfl⟩, by decide⟩

theorem witness_EveryCommandAnswers : RxInRange full.block := by
  unfold RxInRange
  decide

/-- A block that holds a response in RX, with one action of the host to come. -/
def withBytesAnd (a : HostAction) : State := (withBytes response).withPending [a]

/-- The invariant of a block that holds a response in RX, clause by clause. -/
theorem withBytesAnd_inv (a : HostAction) : Inv (withBytesAnd a).block := by
  show Inv (withBytes response).block
  constructor
  · unfold RxInRange
    decide
  · decide
  · decide
  · decide
  · decide
  · exact .inl rfl
  · decide
  · decide
  · decide
  · decide
  · decide
  · decide
  · decide
  · decide
  · decide

theorem witness_StepKeepsInvariant :
    Inv (withBytesAnd (.write 0x00 4 0x09000000#32)).block ∧
      ∃ t, step (withBytesAnd (.write 0x00 4 0x09000000#32)) = .next t := ⟨withBytesAnd_inv _, _, rfl⟩

theorem witness_StepKeepsBadcntBounded :
    RxInRange (withAction .reset).block ∧ BadcntBounded (withAction .reset).block ∧
      ∃ t, step (withAction .reset) = .next t :=
  ⟨by unfold RxInRange; decide, by unfold BadcntBounded; decide, _, rfl⟩

/-- The invariant, and an access that the spec gives no meaning. -/
theorem witness_StepStopsOnlyOnUndefinedAccess :
    Inv (withBytesAnd (.read 0x58 4)).block ∧ (withBytesAnd (.read 0x58 4)).host.pending = [.read 0x58 4] :=
  ⟨withBytesAnd_inv _, rfl⟩

/-- Any action, a legal word, an illegal one, and nothing pending. -/
theorem witness_StepRunsDecodedCommand :
    (withAction (.read 0x04 4)).host.pending = [.read 0x04 4] ∧ (withAction .reset).host.pending = [.reset] ∧
      ((withAction (.write 0x00 4 0x020000FF#32)).host.pending = [.write 0x00 4 0x020000FF#32] ∧
      decode 0x020000FF#32 = .ok (.crcupd 0xFF#8)) ∧
      ((withAction (.write 0x00 4 0x00000000#32)).host.pending = [.write 0x00 4 0x00000000#32] ∧
        decode 0x00000000#32 = .error .opcode) ∧
      State.reset.host.pending = [] := by decide

/-- The windows at the last byte of the buffer and of the frame. -/
theorem witness_RegisterMapShowsState :
    (RxInRange ((withBytes response).block.setBufidx (lenOf 6)) ∧
      ((withBytes response).block.setBufidx (lenOf 6)).bufidx.toNat <
        ((withBytes response).block.setBufidx (lenOf 6)).rxlen.toNat) ∧
      (((withFrame response).block.setBufidx (lenOf 6)).flen.toNat ≤ Config.rxCap ∧
        ((withFrame response).block.setBufidx (lenOf 6)).bufidx.toNat <
          ((withFrame response).block.setBufidx (lenOf 6)).flen.toNat) := by
  unfold RxInRange
  decide

/-- After reset BUFIDX is at both lengths. -/
theorem witness_ReadsChangeNothing :
    (∃ t, perform (.read 0x50 4) State.reset = .next t) ∧
      State.reset.block.rxlen.toNat ≤ State.reset.block.bufidx.toNat ∧
      State.reset.block.flen.toNat ≤ State.reset.block.bufidx.toNat := ⟨⟨_, rfl⟩, by decide, by decide⟩

/-- The last register of the map, which is read only. -/
theorem witness_WritesReachOnlyCmdAndBufidx : 0x54 % 4 = 0 ∧ 0x54 < 0x58 ∧ 0x54 ≠ 0x00 ∧ 0x54 ≠ 0x4C := by decide

/-- A half word, a misaligned word, and the first word above the map. -/
theorem witness_UndefinedAccessesRefused :
    ¬ (2 = 4 ∧ 0x00 % 4 = 0 ∧ 0x00 < 0x58) ∧ ¬ (4 = 4 ∧ 0x01 % 4 = 0 ∧ 0x01 < 0x58) ∧
      ¬ (4 = 4 ∧ 0x58 % 4 = 0 ∧ 0x58 < 0x58) := by decide

end Sys2Proof.Machine.Tests
end

/-! PROOFS. The state (10_state.md): the invariant, the fields a command writes, the bound of BADCNT, and the host's side
of the register map. -/

namespace Sys2Proof.Machine

/-! ### The invariant under each update of the block -/

section Updates
variable {b : Block} (h : Inv b)
include h

theorem Inv.setCrc (c : Half) : Inv (b.setCrc c) := { h with }

theorem Inv.setV (x : Bool) : Inv (b.setV x) := { h with }

theorem Inv.setBadcnt (n : BitVec 32) : Inv (b.setBadcnt n) := { h with }

theorem Inv.setRsp (x y z : Byte) : Inv (b.setRsp x y z) := { h with }

theorem Inv.setBufidx (n : Len) : Inv (b.setBufidx n) := { h with }

theorem Inv.setErr {e : BitVec 4} (he : e.toNat ≤ 4) : Inv (b.setErr e) := { h with err_le := he }

theorem Inv.setRx {m : Memory} {n : Len} (hn : n.toNat ≤ Config.rxCap) (hwf : Memory.wf .rx m)
    (hl : m.map Prod.fst = List.range n.toNat) : Inv (b.setRx m n) :=
  { h with rx_le := hn, rx_wf := hwf, rx_listed := hl }

/-- The receive buffer may be filled with any bytes that fit. -/
theorem Inv.setRx_holding {bs : List Byte} (hle : bs.length ≤ Config.rxCap) :
    Inv (b.setRx (Memory.holding .rx bs) (lenOf bs.length)) := by
  have hn := toNat_lenOf hle
  exact h.setRx (hn.trans_le hle) (Memory.wf_holding .rx bs hle) (by rw [hn]; exact Memory.listed_holding bs rfl)

/-- A frame may be stored that verifies and whose window lies within the receive buffer. -/
theorem Inv.setFrame_found {bs : List Byte} {start : Nat} (hmin : Config.minFrame ≤ bs.length)
    (hcap : start + bs.length ≤ Config.rxCap) (hv : verify bs = some true) :
    Inv (b.setFrame true (Memory.holding .f bs) (lenOf bs.length) (lenOf start)) := by
  have hle : bs.length ≤ Config.rxCap := by omega
  have hlen := toNat_lenOf hle
  have hstart : (lenOf start).toNat = start := toNat_lenOf (by omega)
  have hpos : bs.length ≠ 0 := Nat.ne_of_gt (Nat.lt_of_lt_of_le (show 0 < Config.minFrame by decide) hmin)
  exact { h with
    flen_range := .inr (by simp [hlen, hmin, hle])
    found_iff := by simp [hlen, hmin]
    not_found_iff := by simpa [hlen] using hpos
    frame_verifies := fun _ => by rw [Block.frame_setFrame b true _ hle, hv]
    fstart_le := by simpa [hlen, hstart] using hcap
    fstart_zero := fun h0 => absurd h0 (by simpa [hlen] using hpos)
    f_wf := Memory.wf_holding .f bs hle
    f_listed := by simpa [hlen] using Memory.listed_holding (sp := .f) bs rfl }

/-- The frame may be discarded (43_frame_extract.md R144, no frame found). -/
theorem Inv.setFrame_none : Inv (b.setFrame false (Memory.holding .f []) (lenOf 0) (lenOf 0)) :=
  { h with
    flen_range := .inl rfl
    found_iff := by simp [Config.minFrame]
    not_found_iff := by simp
    frame_verifies := by simp [Config.minFrame]
    fstart_le := Nat.zero_le _
    fstart_zero := fun _ => rfl
    f_wf := Memory.wf_nil .f
    f_listed := rfl }

end Updates

/-! ### The request that ENCODE stores -/

theorem Memory.byteAt_writeSeq_zero (sp : Space) (m : Memory) {bs : List Byte} {i : Nat} (hi : i < bs.length) :
    Memory.byteAt sp (Memory.writeSeq sp m 0 bs) i = bs[i] :=
  Memory.byteAt_of_read (by rw [Memory.read_writeSeq]; simp [hi])

/-- TXBUF after a store of as many bytes as it has. -/
theorem Block.tx_setTx (b : Block) {bs : List Byte} (n : BitVec 4) (hlen : bs.length = Config.reqLen) :
    (b.setTx (Memory.writeSeq .tx b.txbuf 0 bs) n).tx = bs := by
  apply List.ext_getElem
  · simp [hlen]
  · intro i _ hi
    simpa [Block.tx, Block.txByte] using Memory.byteAt_writeSeq_zero .tx b.txbuf hi

@[simp] theorem encodeReadRequest_length (slave : Byte) (reg : Half) :
    (encodeReadRequest slave reg).length = Config.reqLen := rfl

/-- A request carries its own checksum (42_frame_encode.md R133 (a)). -/
theorem verify_encodeReadRequest (slave : Byte) (reg : Half) : verify (encodeReadRequest slave reg) = some true := by
  simp [encodeReadRequest, checksum, verify_append]

/-- ENCODE may store any request (10_state.md R42 (e)). -/
theorem Inv.setTx_request {b : Block} (h : Inv b) (slave : Byte) (reg : Half) :
    Inv (b.setTx (Memory.writeSeq .tx b.txbuf 0 (encodeReadRequest slave reg)) 8#4) :=
  have byte (i : Nat) (hi : i < 8) :
      Memory.byteAt .tx (Memory.writeSeq .tx b.txbuf 0 (encodeReadRequest slave reg)) i =
        (encodeReadRequest slave reg)[i] := Memory.byteAt_writeSeq_zero .tx b.txbuf hi
  { h with
    tx := .inr ⟨rfl, byte 1 (by decide), byte 4 (by decide), byte 5 (by decide), by
      rw [Block.tx_setTx b 8#4 (encodeReadRequest_length slave reg), verify_encodeReadRequest]⟩
    tx_wf := Memory.wf_writeSeq _ h.tx_wf (by simp [Space.size]) }

/-! ### The value that DECODE stores -/

/-- The bits of an extended value: those of the 16-bit value, then the sign or 0 (44_response_decode.md R161). -/
theorem getLsbD_extend32 (sgn : Bool) (r : Half) {i : Nat} (hi : i < 32) :
    (extend32 sgn r).getLsbD i = if i < 16 then r.getLsbD i else sgn && r.msb := by
  cases sgn with
  | true => exact (BitVec.getLsbD_signExtend r).trans (by simp only [hi, decide_true, Bool.true_and])
  | false =>
    rw [show extend32 false r = r.setWidth 32 from rfl, BitVec.getLsbD_setWidth]
    split
    · simp only [hi, decide_true, Bool.true_and]
    · rename_i h
      simp only [BitVec.getLsbD_of_ge r i (Nat.not_lt.1 h), Bool.and_false, Bool.false_and]

theorem extractLsb'_low_extend32 (sgn : Bool) (r : Half) : (extend32 sgn r).extractLsb' 0 16 = r := by
  apply BitVec.eq_of_getLsbD_eq
  intro i hi
  rw [BitVec.getLsbD_extractLsb', getLsbD_extend32 sgn r (by omega)]
  simp [hi]

/-- The upper half of an extended value is the sign, 16 times. -/
theorem extractLsb'_high_extend32 (sgn : Bool) (r : Half) :
    (extend32 sgn r).extractLsb' 16 16 = if sgn && r.msb then 0xFFFF#16 else 0x0000#16 := by
  apply BitVec.eq_of_getLsbD_eq
  intro i hi
  have hones : (0xFFFF#16).getLsbD i = true := (BitVec.getLsbD_allOnes (v := 16)).trans (decide_eq_true hi)
  rw [BitVec.getLsbD_extractLsb', getLsbD_extend32 sgn r (by omega), if_neg (by omega)]
  cases sgn && r.msb
  · simp
  · simp only [hi, hones, decide_true, Bool.true_and, if_true]

theorem Inv.setDok_false {b : Block} (h : Inv b) : Inv (b.setDok false) :=
  { h with value_of_raw := by simp }

/-- RAW and VALUE stored together agree, so the result may be declared valid. -/
theorem Inv.setValue_setDok {b : Block} (h : Inv b) (sgn : Bool) (r : Half) :
    Inv ((b.setValue r (extend32 sgn r)).setDok true) :=
  have hhigh : (extend32 sgn r).extractLsb' 16 16 = 0x0000#16 ∨ (extend32 sgn r).extractLsb' 16 16 = 0xFFFF#16 := by
    rw [extractLsb'_high_extend32]
    cases sgn && r.msb
    · exact .inl rfl
    · exact .inr rfl
  { h with value_of_raw := fun _ => ⟨extractLsb'_low_extend32 sgn r, hhigh⟩ }

theorem Inv.afterDecode {b : Block} (h : Inv b) (sgn : Bool) (addr func bc hi lo : Byte) :
    Inv (afterDecode b sgn addr func bc hi lo) := by
  unfold Machine.afterDecode
  split
  · exact (h.setRsp addr func bc).setValue_setDok sgn _
  · exact (h.setRsp addr func bc).setDok_false

/-! ### What EXTRACT finds -/

/-- The windows of the scan are the candidate windows (43_frame_extract.md R142). -/
theorem mem_windows_iff (len : Nat) (w : Nat × Nat) : w ∈ windows len ↔ IsWindow len w := by
  obtain ⟨s, e⟩ := w
  simp only [windows, List.mem_flatMap, List.mem_map, List.mem_range, Prod.mk.injEq, IsWindow, Config.minFrame]
  constructor
  · rintro ⟨s, hs, k, hk, rfl, rfl⟩
    omega
  · rintro ⟨hmin, hmax⟩
    exact ⟨s, by omega, e - (s + 7), by omega, rfl, by omega⟩

/-- A frame found is what a candidate window that verifies cuts out. -/
theorem exists_window_of_extractFrame {bs : List Byte} {x : Extraction} (hx : (extractFrame bs).1 = some x) :
    ∃ w, IsWindow bs.length w ∧ verify (slice bs w.1 w.2) = some true ∧ x = cutAt bs w := by
  rcases scan_cases bs (windows bs.length) with ⟨pre, w, post, hws, -, hpass, hscan⟩ | ⟨-, hscan⟩
  · have hmem : w ∈ windows bs.length := by simp [hws]
    simp only [extractFrame, hscan, Option.map_some, Option.some.injEq] at hx
    exact ⟨w, (mem_windows_iff _ _).1 hmem, passes_iff.1 hpass, hx.symm⟩
  · simp [extractFrame, hscan] at hx

theorem afterScan_of_none (b : Block) {r : Option Extraction × Nat} (hr : r.1 = none) :
    afterScan b r =
      (b.setFrame false (Memory.holding .f []) (lenOf 0) (lenOf 0)).setBadcnt (BitVec.ofNat 32 r.2) := by
  simp [afterScan, hr]

theorem afterScan_of_some (b : Block) {r : Option Extraction × Nat} {x : Extraction} (hr : r.1 = some x) :
    afterScan b r =
      ((b.setFrame true (Memory.holding .f x.frame) (lenOf x.frame.length) (lenOf x.start)).setRx
        (Memory.holding .rx x.remaining) (lenOf x.remaining.length)).setBadcnt (BitVec.ofNat 32 r.2) := by
  simp [afterScan, hr]

theorem Inv.afterScan {b : Block} (h : Inv b) : Inv (afterScan b (extractFrame b.rx)) := by
  have hcap : b.rxlen.toNat ≤ Config.rxCap := h.rx_le
  cases hx : (extractFrame b.rx).1 with
  | none =>
    rw [afterScan_of_none b hx]
    exact h.setFrame_none.setBadcnt _
  | some x =>
    obtain ⟨w, ⟨hmin, hmax⟩, hv, rfl⟩ := exists_window_of_extractFrame hx
    have hlen : (slice b.rx w.1 w.2).length = w.2 - w.1 := slice_length hmax
    rw [Block.rx_length] at hmax
    have hframe := h.setFrame_found (bs := slice b.rx w.1 w.2) (start := w.1) (by omega) (by omega) hv
    rw [afterScan_of_some b hx]
    exact (hframe.setRx_holding (bs := b.rx.drop w.2) (by simp; omega)).setBadcnt _

/-! ### Commands, faults, reset -/

/-- RXPUSH with room: the byte is listed next. -/
theorem Inv.push {b : Block} (h : Inv b) (x : Byte) (hroom : b.rxlen.toNat ≠ Config.rxCap) :
    Inv (b.setRx (Memory.write .rx b.rxbuf b.rxlen.toNat x) (b.rxlen + lenOf 1)) := by
  have hlt : b.rxlen.toNat < Config.rxCap := Nat.lt_of_le_of_ne h.rx_le hroom
  have hn := toNat_add_one hlt
  exact h.setRx (by omega) (Memory.wf_write x h.rx_wf hlt)
    (by rw [hn]; exact Memory.listed_write_next x rfl h.rx_listed)

/-- The effect of every command keeps the invariant. -/
theorem Inv.effect {b : Block} (h : Inv b) (i : Instr) (hf : faultOf i b = none) : Inv (effect i b) := by
  cases i with
  | crcinit => exact h.setCrc _
  | crcupd x => exact h.setCrc _
  | crcbuf => exact h.setCrc _
  | verify => exact (h.setCrc _).setV _
  | validate =>
    simp only [Machine.effect]
    split
    · exact h.setV _
    · exact (h.setCrc _).setV _
  | rxclr => exact h.setRx_holding (bs := []) (Nat.zero_le _)
  | rxpush x => exact h.push x (by simpa [faultOf] using hf)
  | encode slave reg => exact h.setTx_request slave reg
  | extract => exact h.afterScan
  | decode sgn => exact h.afterDecode ..
  | errclr => exact h.setErr (Nat.zero_le _)

/-- The fault codes are 1 to 4 (60_exceptions.md R181). -/
theorem errAfter_code_le {e : BitVec 4} (he : e.toNat ≤ 4) (f : FaultCode) : (errAfter e f.code).toNat ≤ 4 := by
  unfold errAfter
  split
  · cases f <;> decide
  · exact he

theorem Inv.reset : Inv Block.reset where
  rx_le := Nat.zero_le _
  flen_range := .inl rfl
  found_iff := by decide
  not_found_iff := by decide
  frame_verifies := by decide
  tx := .inl rfl
  err_le := Nat.zero_le _
  value_of_raw := by decide
  fstart_le := Nat.zero_le _
  fstart_zero := fun _ => rfl
  rx_wf := Memory.wf_nil .rx
  rx_listed := rfl
  f_wf := Memory.wf_nil .f
  f_listed := rfl
  tx_wf := Memory.wf_nil .tx

/-- Settles O51: no byte is listed, every length is 0. -/
theorem resetMeetsInvariant : Obligations.ResetMeetsInvariant := Inv.reset

/-- Settles O52, by what a step can do to the block. -/
theorem stepKeepsInvariant : Obligations.StepKeepsInvariant := by
  intro s t h hstep
  rcases step_block_cases hstep with ht | ht | ⟨n, ht⟩ | ⟨f, ht⟩ | ⟨i, hf, ht⟩ <;> rw [ht]
  · exact h
  · exact Inv.reset
  · exact h.setBufidx n
  · exact h.setErr (errAfter_code_le h.err_le f)
  · exact h.effect i hf

/-! ### The fields a command writes -/

theorem SameExcept.same_of_not_writtenBy {fs : List Field} {b c : Block} {i : Instr} {f : Field}
    (h : SameExcept fs b c) (hfs : ∀ g ∈ fs, mnemonicOf i ∈ writtenBy g) (hf : mnemonicOf i ∉ writtenBy f) :
    f.same b c :=
  h f fun hmem => hf (hfs f hmem)

/-- Two updates in succession leave alone what both leave alone. -/
theorem SameExcept.append {fs gs : List Field} {b c d : Block} (h : SameExcept fs b c) (h' : SameExcept gs c d) :
    SameExcept (fs ++ gs) b d :=
  (h.mono fun _ => List.mem_append_left gs).trans (h'.mono fun _ => List.mem_append_right fs)

theorem sameExcept_setCrc_setV (b : Block) (c : Half) (x : Bool) : SameExcept [.crc, .v] b ((b.setCrc c).setV x) :=
  (sameExcept_setCrc b c).append (sameExcept_setV (b.setCrc c) x)

/-- EXTRACT writes the frame, BADCNT and, when it finds a frame, the receive buffer (43_frame_extract.md R144). -/
theorem sameExcept_afterScan (b : Block) (r : Option Extraction × Nat) :
    SameExcept [.found, .fbuf, .flen, .fstart, .rxbuf, .rxlen, .badcnt] b (afterScan b r) := by
  cases hr : r.1 with
  | none =>
    rw [afterScan_of_none b hr]
    exact ((sameExcept_setFrame b _ _ _ _).append (sameExcept_setBadcnt _ _)).mono (by decide)
  | some x =>
    rw [afterScan_of_some b hr]
    exact ((sameExcept_setFrame b _ _ _ _).append (sameExcept_setRx _ _ _)).append (sameExcept_setBadcnt _ _)

/-- DECODE writes the decode registers (44_response_decode.md R161). -/
theorem sameExcept_afterDecode (b : Block) (sgn : Bool) (addr func bc hi lo : Byte) :
    SameExcept [.rspAddr, .rspFunc, .rspBc, .raw, .value, .dok] b (afterDecode b sgn addr func bc hi lo) := by
  unfold afterDecode
  split
  · exact ((sameExcept_setRsp b _ _ _).append (sameExcept_setValue _ _ _)).append (sameExcept_setDok _ _)
  · exact ((sameExcept_setRsp b _ _ _).append (sameExcept_setDok _ _)).mono (by decide)

/-- The column "written by" of 10_state.md R20 is a frame for every command's effect. -/
theorem effect_same_of_not_writtenBy (i : Instr) (b : Block) {f : Field} (hf : mnemonicOf i ∉ writtenBy f) :
    f.same b (effect i b) := by
  cases i with
  | crcinit => exact (sameExcept_setCrc b _).same_of_not_writtenBy (by decide) hf
  | crcupd x => exact (sameExcept_setCrc b _).same_of_not_writtenBy (by simp [mnemonicOf, writtenBy]) hf
  | crcbuf => exact (sameExcept_setCrc b _).same_of_not_writtenBy (by decide) hf
  | verify => exact (sameExcept_setCrc_setV b _ _).same_of_not_writtenBy (by decide) hf
  | validate =>
    simp only [effect]
    split
    · exact (sameExcept_setV b _).same_of_not_writtenBy (by decide) hf
    · exact (sameExcept_setCrc_setV b _ _).same_of_not_writtenBy (by decide) hf
  | rxclr => exact (sameExcept_setRx b _ _).same_of_not_writtenBy (by decide) hf
  | rxpush x => exact (sameExcept_setRx b _ _).same_of_not_writtenBy (by simp [mnemonicOf, writtenBy]) hf
  | encode slave reg => exact (sameExcept_setTx b _ _).same_of_not_writtenBy (by simp [mnemonicOf, writtenBy]) hf
  | extract => exact (sameExcept_afterScan b _).same_of_not_writtenBy (by decide) hf
  | decode sgn =>
    exact (sameExcept_afterDecode b _ _ _ _ _ _).same_of_not_writtenBy (by simp [mnemonicOf, writtenBy]) hf
  | errclr => exact (sameExcept_setErr b _).same_of_not_writtenBy (by decide) hf

/-- Settles O49: a fault writes ERR alone, an effect the fields of the column "written by". -/
theorem commandsWriteOnlyTheirFields : Obligations.CommandsWriteOnlyTheirFields := by
  intro i s t hexec
  refine ⟨exec_host hexec, ?_⟩
  rcases exec_next_cases hexec with ⟨k, hk, rfl⟩ | ⟨hnone, rfl⟩
  · have hsame := sameExcept_enterFault s k
    refine ⟨fun f _ hf => hsame f ?_, fun _ _ => hsame⟩
    have herr : f ≠ .err := hf.resolve_right (by simp [hk])
    simpa using herr
  · exact ⟨fun f hf _ => effect_same_of_not_writtenBy i s.block hf, fun k hk => by simp [hnone] at hk⟩

/-! ### BADCNT -/

/-- The windows of a buffer with `n` starts: `n` of the first start, one fewer of each start after it. -/
theorem two_mul_sum_descending (n : Nat) : 2 * ((List.range n).map fun s => n - s).sum = n * (n + 1) := by
  induction n with
  | zero => rfl
  | succ n ih =>
    have hshift : (fun s => n + 1 - s) ∘ Nat.succ = fun s => n - s := funext fun s => Nat.add_sub_add_right n 1 s
    rw [List.range_succ_eq_map, List.map_cons, List.map_map, hshift, List.sum_cons, Nat.mul_add, ih,
      Nat.sub_zero]
    ring

/-- The number of windows of a buffer (43_frame_extract.md R142). -/
theorem windows_length (len : Nat) :
    (windows len).length = (len + 1 - Config.minFrame) * (len + 1 - Config.minFrame + 1) / 2 := by
  have hsum := two_mul_sum_descending (len + 1 - Config.minFrame)
  simp only [windows, List.length_flatMap, List.length_map, List.length_range]
  omega

/-- A scan fails at most once per window. -/
theorem scan_count_le (bs : List Byte) (ws : List (Nat × Nat)) : (scan bs ws).2 ≤ ws.length := by
  rcases scan_cases bs ws with ⟨pre, w, post, rfl, -, -, hscan⟩ | ⟨-, hscan⟩
  · simp [hscan]
  · simp [hscan]

/-- The failed windows of a buffer that fits are at most the windows of a full one (10_state.md R27). -/
theorem extractFrame_count_le {bs : List Byte} (hle : bs.length ≤ Config.rxCap) :
    (extractFrame bs).2 ≤ (Config.rxCap - 6) * (Config.rxCap - 5) / 2 :=
  calc (extractFrame bs).2
    _ ≤ (windows bs.length).length := scan_count_le bs _
    _ = (bs.length + 1 - Config.minFrame) * (bs.length + 1 - Config.minFrame + 1) / 2 := windows_length _
    _ ≤ (Config.rxCap - 6) * (Config.rxCap - 5) / 2 := by
      have h6 : bs.length + 1 - Config.minFrame ≤ Config.rxCap - 6 := by
        simp only [Config.minFrame]
        omega
      exact Nat.div_le_div_right (Nat.mul_le_mul h6 (Nat.succ_le_succ h6))

/-- The bound is far below where 32 bits wrap (45_system.md R172 (d)). -/
theorem badcntBound_lt : (Config.rxCap - 6) * (Config.rxCap - 5) / 2 < 2 ^ 31 := by decide

@[simp] theorem afterScan_badcnt (b : Block) (r : Option Extraction × Nat) :
    (afterScan b r).badcnt = BitVec.ofNat 32 r.2 := by
  cases hr : r.1 with
  | none => rw [afterScan_of_none b hr]; rfl
  | some x => rw [afterScan_of_some b hr]; rfl

/-- Every command but EXTRACT leaves BADCNT alone. -/
theorem effect_badcnt_of_ne_extract {i : Instr} (hi : i ≠ .extract) (b : Block) : (effect i b).badcnt = b.badcnt :=
  effect_same_of_not_writtenBy i b (f := .badcnt) (by cases i <;> simp_all [mnemonicOf, writtenBy])

theorem BadcntBounded.effect {b : Block} (hb : BadcntBounded b) (hrx : RxInRange b) (i : Instr) :
    BadcntBounded (effect i b) := by
  unfold BadcntBounded
  by_cases hi : i = .extract
  · subst hi
    have hcount : (extractFrame b.rx).2 ≤ (Config.rxCap - 6) * (Config.rxCap - 5) / 2 :=
      extractFrame_count_le ((Block.rx_length b).trans_le hrx)
    simp only [Machine.effect, afterScan_badcnt, BitVec.toNat_ofNat]
    exact (Nat.mod_le _ _).trans hcount
  · rw [effect_badcnt_of_ne_extract hi]
    exact hb

/-- Settles O53: only EXTRACT and reset write BADCNT, and a scan of a buffer that fits fails no more often than a full
buffer has windows. -/
theorem stepKeepsBadcntBounded : Obligations.StepKeepsBadcntBounded := by
  intro s t hrx hb hstep
  suffices ht : BadcntBounded t.block from ⟨ht, Nat.lt_of_le_of_lt ht badcntBound_lt⟩
  rcases step_block_cases hstep with ht | ht | ⟨n, ht⟩ | ⟨f, ht⟩ | ⟨i, -, ht⟩ <;> rw [ht]
  · exact hb
  · exact Nat.zero_le _
  · exact hb
  · exact hb
  · exact hb.effect hrx i

/-! ### Reads of the register map -/

/-- An aligned access of a whole word inside the map is performed. -/
theorem accessProblem_eq_none {off : Nat} (hal : off % 4 = 0) (hlt : off < 0x58) : accessProblem off 4 = none :=
  (accessProblem_none_iff off 4).2 ⟨rfl, hal, hlt⟩

theorem perform_read_of_regAt {off : Nat} {r : MapReg} (s : State) (hacc : accessProblem off 4 = none)
    (hreg : regAt off = some r) : perform (.read off 4) s = readReg s r := by
  simp [perform, hacc, hreg]

/-- A read returns what its register reads as, and changes nothing but the host's replies (10_state.md R39 (b)). -/
theorem reads_of_regWord {s : State} {off : Nat} {r : MapReg} {w : Word} (hacc : accessProblem off 4 = none)
    (hreg : regAt off = some r) (hw : regWord s.block (Config.freeByte s.host.draws) r = .ok w) : Reads s off w := by
  refine ⟨s.setHost (s.host.answer w (unspecifiedRead s.block r)), ?_, rfl, rfl, rfl⟩
  rw [perform_read_of_regAt s hacc hreg, readReg, hw, access_ok]

/-- A register that reads as a shorter value reads as the number of that value. -/
theorem reads_of_setWidth {s : State} {off n : Nat} {r : MapReg} {x : BitVec n} (hacc : accessProblem off 4 = none)
    (hreg : regAt off = some r) (hw : regWord s.block (Config.freeByte s.host.draws) r = .ok (x.setWidth 32)) :
    Reads s off (BitVec.ofNat 32 x.toNat) :=
  reads_of_regWord hacc hreg (by rw [hw, BitVec.ofNat_toNat])

/-- STATUS, bit by bit, as a number (10_state.md R38). -/
theorem statusWord_eq_ofNat (b : Block) :
    statusWord b = BitVec.ofNat 32 (2 * b.v.toNat + 4 * b.found.toNat + 8 * b.dok.toNat + 16 * b.err.toNat) := by
  unfold statusWord busy
  generalize b.v = v, b.found = found, b.dok = dok, b.err = err
  revert v found dok err
  decide

/-- Fields of a word that do not overlap may be added. -/
theorem or_shiftLeft_eq_add {x y : Word} {n : Nat} (hx : x.toNat < 2 ^ n) : x ||| y <<< n = x + y <<< n := by
  refine (BitVec.add_eq_or_of_and_eq_zero _ _ (BitVec.eq_of_getLsbD_eq fun i _ => ?_)).symm
  rw [BitVec.getLsbD_and, BitVec.getLsbD_shiftLeft]
  by_cases h : i < n
  · simp [h]
  · have hlow : x.getLsbD i = false :=
      Nat.testBit_lt_two_pow (Nat.lt_of_lt_of_le hx (Nat.pow_le_pow_right Nat.two_pos (Nat.not_lt.1 h)))
    simp [hlow]

/-- RSPR: three bytes side by side, as a number (10_state.md R37). -/
theorem rsprWord_eq_ofNat (addr func bc : Byte) :
    (addr.setWidth 32 ||| (func.setWidth 32 <<< 8) ||| (bc.setWidth 32 <<< 16) : Word) =
      BitVec.ofNat 32 (addr.toNat + 256 * func.toNat + 65536 * bc.toNat) := by
  have hlow : (addr.setWidth 32 ||| (func.setWidth 32 <<< 8) : Word) =
      BitVec.ofNat 32 (addr.toNat + 256 * func.toNat) := by
    rw [or_shiftLeft_eq_add (by simp; omega)]
    bv_omega
  rw [hlow, or_shiftLeft_eq_add (by simp; omega)]
  bv_omega

/-- A read window in range shows the byte at BUFIDX (10_state.md R37). -/
theorem windowWord_of_lt {sp : Space} {m : Memory} {len idx : Len} {free : Byte} (hlt : idx.toNat < len.toNat)
    (hsize : len.toNat ≤ sp.size) :
    windowWord sp m len idx free = .ok ((Memory.byteAt sp m idx.toNat).setWidth 32) := by
  rw [windowWord, if_neg (Nat.not_le.2 hlt), readAt_of_lt (Nat.lt_of_lt_of_le hlt hsize)]
  rfl

/-- A read window out of range shows the free byte (10_state.md R39 (d); log 8). -/
theorem windowWord_of_le {sp : Space} {m : Memory} {len idx : Len} {free : Byte} (hle : len.toNat ≤ idx.toNat) :
    windowWord sp m len idx free = .ok (free.setWidth 32) := if_pos hle

theorem regAt_txb (n : Fin 8) : regAt (0x20 + 4 * n.val) = some (.txb n) := by
  fin_cases n <;> rfl

/-- Settles O56, register by register, in the order of R37. -/
theorem registerMapShowsState : Obligations.RegisterMapShowsState := by
  intro s b
  refine ⟨reads_of_regWord rfl rfl rfl, ?status, reads_of_setWidth rfl rfl rfl, reads_of_setWidth rfl rfl rfl,
    reads_of_setWidth rfl rfl rfl, reads_of_setWidth rfl rfl rfl, reads_of_regWord rfl rfl rfl,
    reads_of_setWidth rfl rfl rfl, ?txb, ?rspr, reads_of_setWidth rfl rfl rfl, reads_of_regWord rfl rfl rfl,
    reads_of_setWidth rfl rfl rfl, ?rxdata, ?fdata⟩
  case status => exact reads_of_regWord rfl rfl (congrArg _ (statusWord_eq_ofNat b))
  case txb =>
    intro n hn
    exact reads_of_setWidth (accessProblem_eq_none (by omega) (by omega)) (regAt_txb ⟨n, hn⟩) rfl
  case rspr => exact reads_of_regWord rfl rfl (congrArg _ (rsprWord_eq_ofNat ..))
  case rxdata => exact fun hle hlt => reads_of_setWidth rfl rfl (windowWord_of_lt hlt hle)
  case fdata => exact fun hle hlt => reads_of_setWidth rfl rfl (windowWord_of_lt hlt hle)

/-- Settles O57: a read is the one action that only answers the host; out of range the byte is the free value. -/
theorem readsChangeNothing : Obligations.ReadsChangeNothing := by
  refine ⟨fun s t off hread => ?_, fun s hle => ?_, fun s hle => ?_⟩
  · rcases perform_next_cases hread with ⟨hact, -⟩ | ⟨_, w, d, -, rfl⟩ | ⟨_, _, hact, -⟩
    · cases hact
    · exact ⟨rfl, rfl, w, rfl⟩
    · cases hact
  · exact ⟨Config.freeByte s.host.draws, reads_of_setWidth rfl rfl (windowWord_of_le hle)⟩
  · exact ⟨Config.freeByte s.host.draws, reads_of_setWidth rfl rfl (windowWord_of_le hle)⟩

/-! ### Writes of the register map, and reset -/

theorem regAt_eq_cmd {off : Nat} (h : regAt off = some .cmd) : off = 0x00 := by
  unfold regAt at h
  split at h <;> simp_all

theorem regAt_eq_bufidxr {off : Nat} (h : regAt off = some .bufidxr) : off = 0x4C := by
  unfold regAt at h
  split at h <;> simp_all

/-- Writes of other registers, or of none, are ignored (10_state.md R39 (c)). -/
theorem writeReg_of_ne (s : State) {r : Option MapReg} (w : Word) (hcmd : r ≠ some .cmd)
    (hidx : r ≠ some .bufidxr) :
    writeReg s r w = .next s := by
  unfold writeReg
  split
  · exact absurd rfl hcmd
  · exact absurd rfl hidx
  · rfl

theorem perform_write_of_accessProblem {off : Nat} (s : State) (w : Word) (hacc : accessProblem off 4 = none) :
    perform (.write off 4 w) s = writeReg s (regAt off) w := by
  simp [perform, hacc]

/-- Settles O58: only the offsets of CMD and BUFIDXR hold a register that a write reaches. -/
theorem writesReachOnlyCmdAndBufidx : Obligations.WritesReachOnlyCmdAndBufidx := by
  refine ⟨fun s w => ?_, fun s off w hal hlt hcmd hidx => ?_⟩
  · exact ⟨s.setBlock (s.block.setBufidx (w.setWidth Config.wLen)), rfl, BitVec.toNat_setWidth _ _,
      sameExcept_setBufidx _ _, rfl⟩
  · rw [perform_write_of_accessProblem s w (accessProblem_eq_none hal hlt)]
    exact writeReg_of_ne s w (fun h => hcmd (regAt_eq_cmd h)) fun h => hidx (regAt_eq_bufidxr h)

/-- Settles O60: reset overwrites the whole block, so what it leaves does not depend on the state. -/
theorem resetLeaves : Obligations.ResetLeaves := by
  intro s
  have hstatus : statusWord Block.reset = 0#32 := by decide
  exact ⟨s.setBlock Block.reset, rfl, rfl, rfl, rfl, rfl, rfl, rfl, rfl, rfl, rfl, rfl, rfl, rfl, rfl, rfl,
    fun n _ => Memory.read_nil .tx n, rfl, rfl, rfl, rfl, rfl, rfl, reads_of_regWord rfl rfl (congrArg _ hstatus)⟩

end Sys2Proof.Machine

/-! PROOFS. The host's side of the register map (20_memory.md): the bus accesses that have no meaning. -/

namespace Sys2Proof.Machine

/-- Every access but an aligned one of a whole word of the map has a reason against it (20_memory.md R55, R58). -/
theorem exists_accessProblem {off size : Nat} (h : ¬ (size = 4 ∧ off % 4 = 0 ∧ off < Config.mapSpan)) :
    ∃ r, accessProblem off size = some r :=
  Option.ne_none_iff_exists'.1 (mt (accessProblem_none_iff off size).1 h)

theorem perform_read_refused {off size : Nat} {r : Refusal} (s : State) (hacc : accessProblem off size = some r) :
    perform (.read off size) s = .refused r := by
  simp [perform, hacc]

theorem perform_write_refused {off size : Nat} {r : Refusal} (s : State) (w : Word)
    (hacc : accessProblem off size = some r) : perform (.write off size w) s = .refused r := by
  simp [perform, hacc]

/-- Settles O59: a read and a write are refused for the same reason, found before any register is looked up. -/
theorem undefinedAccessesRefused : Obligations.UndefinedAccessesRefused := by
  intro s off size w hundefined
  obtain ⟨r, hacc⟩ := exists_accessProblem hundefined
  exact ⟨⟨r, perform_read_refused s hacc⟩, ⟨r, perform_write_refused s w hacc⟩⟩

end Sys2Proof.Machine

/-! PROOFS. The encoding (30_encoding.md): decoder and encoder undo each other, which words are illegal, the
match-and-mask table, the operands as numbers, and the words the assembler writes. -/

namespace Sys2Proof.Machine

/-! ### Fields and words as numbers (30_encoding.md R71, R73) -/

section Fields
variable (w : Word)

@[simp] theorem toNat_opField : (opField w).toNat = w.toNat / 2 ^ 24 := by
  rw [opField, BitVec.extractLsb'_toNat, Nat.shiftRight_eq_div_pow]
  exact Nat.mod_eq_of_lt (by have := w.isLt; omega)

@[simp] theorem toNat_byteField : (byteField w).toNat = w.toNat % 256 := by
  rw [byteField, BitVec.extractLsb'_toNat, Nat.shiftRight_zero]

@[simp] theorem toNat_slaveField : (slaveField w).toNat = w.toNat / 65536 % 256 := by
  rw [slaveField, BitVec.extractLsb'_toNat, Nat.shiftRight_eq_div_pow]

@[simp] theorem toNat_regField : (regField w).toNat = w.toNat % 65536 := by
  rw [regField, BitVec.extractLsb'_toNat, Nat.shiftRight_zero]

@[simp] theorem toNat_flagField : (flagField w).toNat = w.toNat % 2 := by
  rw [flagField, BitVec.getLsbD, Nat.testBit_zero]
  rcases Nat.mod_two_eq_zero_or_one w.toNat with h | h <;> simp [h]

/-- The bits `[start + len - 1 : start]` of a word are zero exactly when that number of the word is. -/
theorem extractLsb'_eq_zero_iff (start len : Nat) :
    w.extractLsb' start len = 0#len ↔ w.toNat / 2 ^ start % 2 ^ len = 0 := by
  rw [← BitVec.toNat_inj, BitVec.extractLsb'_toNat, Nat.shiftRight_eq_div_pow, BitVec.toNat_ofNat, Nat.zero_mod]

end Fields

theorem toNat_append_eq_add {m n : Nat} (x : BitVec m) (y : BitVec n) :
    (x ++ y).toNat = x.toNat * 2 ^ n + y.toNat := by
  rw [BitVec.toNat_append, ← Nat.shiftLeft_add_eq_or_of_lt y.isLt, Nat.shiftLeft_eq]

section Words
variable (op b slave : Byte) (reg : Half) (s : Bool)

@[simp] theorem toNat_wordN : (wordN op).toNat = op.toNat * 2 ^ 24 := by
  rw [wordN, toNat_append_eq_add, BitVec.toNat_ofNat, Nat.zero_mod, Nat.add_zero]

@[simp] theorem toNat_wordB : (wordB op b).toNat = op.toNat * 2 ^ 24 + b.toNat := by
  rw [wordB, toNat_append_eq_add, toNat_append_eq_add, BitVec.toNat_ofNat]
  omega

@[simp] theorem toNat_wordE : (wordE op slave reg).toNat = op.toNat * 2 ^ 24 + slave.toNat * 65536 + reg.toNat := by
  rw [wordE, toNat_append_eq_add, toNat_append_eq_add]
  omega

@[simp] theorem toNat_wordS : (wordS op s).toNat = op.toNat * 2 ^ 24 + s.toNat := by
  rw [wordS, toNat_append_eq_add, toNat_append_eq_add, BitVec.toNat_ofNat, BitVec.toNat_ofBool]
  omega

end Words

/-! ### The four formats -/

section Reserved
variable {p : Prop} [Decidable p] {i j : Instr} {e : Illegal}

/-- A format answers its command exactly when its reserved bits are zero. -/
theorem ite_eq_ok_iff : (if p then .ok i else .error e : Except Illegal Instr) = .ok j ↔ p ∧ i = j := by
  split <;> simp [*]

/-- A format refuses the word otherwise. -/
theorem exists_ite_eq_error_iff : (∃ e', (if p then .ok i else .error e : Except Illegal Instr) = .error e') ↔ ¬ p := by
  split <;> simp [*]

end Reserved

theorem formatN_eq_ok_iff {w : Word} {i j : Instr} : formatN w i = .ok j ↔ w = wordN (opField w) ∧ i = j := by
  have hword : w.extractLsb' 0 24 = 0#24 ↔ w = wordN (opField w) := by
    rw [extractLsb'_eq_zero_iff, ← BitVec.toNat_inj, toNat_wordN, toNat_opField]
    omega
  rw [← hword]
  exact ite_eq_ok_iff

theorem formatB_eq_ok_iff {w : Word} {i : Byte → Instr} {j : Instr} :
    formatB w i = .ok j ↔ w = wordB (opField w) (byteField w) ∧ i (byteField w) = j := by
  have hword : w.extractLsb' 8 16 = 0#16 ↔ w = wordB (opField w) (byteField w) := by
    rw [extractLsb'_eq_zero_iff, ← BitVec.toNat_inj, toNat_wordB, toNat_opField, toNat_byteField]
    omega
  rw [← hword]
  exact ite_eq_ok_iff

theorem formatS_eq_ok_iff {w : Word} {i : Bool → Instr} {j : Instr} :
    formatS w i = .ok j ↔ w = wordS (opField w) (flagField w) ∧ i (flagField w) = j := by
  have hword : w.extractLsb' 1 23 = 0#23 ↔ w = wordS (opField w) (flagField w) := by
    rw [extractLsb'_eq_zero_iff, ← BitVec.toNat_inj, toNat_wordS, toNat_opField, toNat_flagField]
    omega
  rw [← hword]
  exact ite_eq_ok_iff

/-- Format E reserves no bit. -/
theorem eq_wordE (w : Word) : w = wordE (opField w) (slaveField w) (regField w) := by
  rw [← BitVec.toNat_inj, toNat_wordE, toNat_opField, toNat_slaveField, toNat_regField]
  omega

theorem exists_formatN_eq_error_iff {w : Word} {i : Instr} :
    (∃ e, formatN w i = .error e) ↔ w.toNat % 2 ^ 24 ≠ 0 := by
  rw [← Nat.div_one w.toNat]
  exact exists_ite_eq_error_iff.trans (not_congr (extractLsb'_eq_zero_iff w 0 24))

theorem exists_formatB_eq_error_iff {w : Word} {i : Byte → Instr} :
    (∃ e, formatB w i = .error e) ↔ w.toNat / 2 ^ 8 % 2 ^ 16 ≠ 0 :=
  exists_ite_eq_error_iff.trans (not_congr (extractLsb'_eq_zero_iff w 8 16))

theorem exists_formatS_eq_error_iff {w : Word} {i : Bool → Instr} :
    (∃ e, formatS w i = .error e) ↔ w.toNat / 2 % 2 ^ 23 ≠ 0 :=
  exists_ite_eq_error_iff.trans (not_congr (extractLsb'_eq_zero_iff w 1 23))

/-! ### Decoder and encoder -/

section FieldsOfWords
variable (op b slave : Byte) (reg : Half) (s : Bool)

theorem opField_wordN : opField (wordN op) = op := by
  rw [← BitVec.toNat_inj, toNat_opField, toNat_wordN]
  omega

theorem opField_wordB : opField (wordB op b) = op := by
  rw [← BitVec.toNat_inj, toNat_opField, toNat_wordB]
  omega

theorem byteField_wordB : byteField (wordB op b) = b := by
  rw [← BitVec.toNat_inj, toNat_byteField, toNat_wordB]
  omega

theorem slaveField_wordE : slaveField (wordE op slave reg) = slave := by
  rw [← BitVec.toNat_inj, toNat_slaveField, toNat_wordE]
  omega

theorem regField_wordE : regField (wordE op slave reg) = reg := by
  rw [← BitVec.toNat_inj, toNat_regField, toNat_wordE]
  omega

theorem opField_wordS : opField (wordS op s) = op := by
  rw [← BitVec.toNat_inj, toNat_opField, toNat_wordS]
  have := s.toNat_lt
  omega

theorem flagField_wordS : flagField (wordS op s) = s := by
  rw [flagField, wordS, BitVec.getLsbD_append]
  simp

end FieldsOfWords

theorem formatN_wordN (op : Byte) (i : Instr) : formatN (wordN op) i = .ok i :=
  formatN_eq_ok_iff.2 ⟨by rw [opField_wordN], rfl⟩

theorem formatB_wordB (op b : Byte) (i : Byte → Instr) : formatB (wordB op b) i = .ok (i b) :=
  formatB_eq_ok_iff.2 ⟨by rw [opField_wordB, byteField_wordB], by rw [byteField_wordB]⟩

theorem formatS_wordS (op : Byte) (s : Bool) (i : Bool → Instr) : formatS (wordS op s) i = .ok (i s) :=
  formatS_eq_ok_iff.2 ⟨by rw [opField_wordS, flagField_wordS], by rw [flagField_wordS]⟩

/-- Settles O1: the opcode leads back to the command's format, and the format to the operands. -/
theorem decodeEncodeRoundTrip : Obligations.DecodeEncodeRoundTrip := by
  intro i
  cases i with
  | crcinit => exact formatN_wordN 0x01#8 _
  | crcupd b =>
    simp only [encode, decode, opField_wordB]
    exact formatB_wordB ..
  | crcbuf => exact formatN_wordN 0x03#8 _
  | verify => exact formatN_wordN 0x04#8 _
  | validate => exact formatN_wordN 0x05#8 _
  | rxclr => exact formatN_wordN 0x06#8 _
  | rxpush b =>
    simp only [encode, decode, opField_wordB]
    exact formatB_wordB ..
  | encode slave reg =>
    simp only [encode, decode, Laws.EncodeHitsRow.opField_wordE, slaveField_wordE, regField_wordE]
    rfl
  | extract => exact formatN_wordN 0x09#8 _
  | decode sgn =>
    simp only [encode, decode, opField_wordS]
    exact formatS_wordS ..
  | errclr => exact formatN_wordN 0x0B#8 _

/-- The word of a command of format N is fixed by its opcode. -/
theorem encode_of_formatN {w : Word} {i j : Instr} {op : Byte} (h : formatN w i = .ok j)
    (hi : encode i = wordN op) (hop : (opField w).toNat = op.toNat) : encode j = w := by
  obtain ⟨hw, rfl⟩ := formatN_eq_ok_iff.1 h
  rw [hi, ← BitVec.eq_of_toNat_eq hop, ← hw]

/-- The word of a command of format B is fixed by its opcode and its byte. -/
theorem encode_of_formatB {w : Word} {i : Byte → Instr} {j : Instr} {op : Byte}
    (h : formatB w i = .ok j) (hi : encode (i (byteField w)) = wordB op (byteField w))
    (hop : (opField w).toNat = op.toNat) : encode j = w := by
  obtain ⟨hw, rfl⟩ := formatB_eq_ok_iff.1 h
  rw [hi, ← BitVec.eq_of_toNat_eq hop, ← hw]

/-- The word of a command of format S is fixed by its opcode and its flag. -/
theorem encode_of_formatS {w : Word} {i : Bool → Instr} {j : Instr} {op : Byte}
    (h : formatS w i = .ok j) (hi : encode (i (flagField w)) = wordS op (flagField w))
    (hop : (opField w).toNat = op.toNat) : encode j = w := by
  obtain ⟨hw, rfl⟩ := formatS_eq_ok_iff.1 h
  rw [hi, ← BitVec.eq_of_toNat_eq hop, ← hw]

/-- Every word with the opcode of ENCODE is an ENCODE. -/
theorem encode_of_opField_eq_08 {w : Word} (hop : (opField w).toNat = 0x08) :
    encode (.encode (slaveField w) (regField w)) = w := by
  have hop8 : opField w = 0x08#8 := BitVec.eq_of_toNat_eq hop
  rw [encode, ← hop8, ← eq_wordE]

/-- Settles O2: the opcode fixes the command, and its format leaves no bit of the word open. -/
theorem encodeDecodeRoundTrip : Obligations.EncodeDecodeRoundTrip := by
  intro w i h
  unfold decode at h
  split at h
  case h_1 hop | h_3 hop | h_4 hop | h_5 hop | h_6 hop | h_9 hop | h_11 hop =>
    exact encode_of_formatN h rfl hop
  case h_2 hop | h_7 hop => exact encode_of_formatB h rfl hop
  case h_8 hop =>
    cases h
    exact encode_of_opField_eq_08 hop
  case h_10 hop => exact encode_of_formatS h rfl hop
  case h_12 => cases h

/-- A word decodes to a command exactly when it is the command's word. -/
theorem decode_eq_ok_iff {w : Word} {i : Instr} : decode w = .ok i ↔ encode i = w :=
  ⟨encodeDecodeRoundTrip w i, fun h => h ▸ decodeEncodeRoundTrip i⟩

/-- A word of no command is illegal. -/
theorem exists_error_of_forall_ne_ok {w : Word} (h : ∀ i, decode w ≠ .ok i) : ∃ e, decode w = .error e := by
  cases hw : decode w with
  | ok i => exact absurd hw (h i)
  | error e => exact ⟨e, rfl⟩

/-! ### Illegal words -/

/-- The words that no command has, format by format (30_encoding.md R74). -/
theorem exists_decode_eq_error_iff (w : Word) :
    (∃ e, decode w = .error e) ↔
      (w.toNat / 2 ^ 24 = 0x00 ∨ 0x0C ≤ w.toNat / 2 ^ 24) ∨
      (w.toNat / 2 ^ 24 ∈ [0x01, 0x03, 0x04, 0x05, 0x06, 0x09, 0x0B] ∧ w.toNat % 2 ^ 24 ≠ 0) ∨
      (w.toNat / 2 ^ 24 ∈ [0x02, 0x07] ∧ w.toNat / 2 ^ 8 % 2 ^ 16 ≠ 0) ∨
      (w.toNat / 2 ^ 24 = 0x0A ∧ w.toNat / 2 % 2 ^ 23 ≠ 0) := by
  unfold decode
  rw [toNat_opField]
  split
  case h_1 hop | h_3 hop | h_4 hop | h_5 hop | h_6 hop | h_9 hop | h_11 hop =>
    rw [exists_formatN_eq_error_iff, hop]
    simp
  case h_2 hop | h_7 hop =>
    rw [exists_formatB_eq_error_iff, hop]
    simp
  case h_8 hop =>
    rw [hop]
    simp
  case h_10 hop =>
    rw [exists_formatS_eq_error_iff, hop]
    simp
  case h_12 =>
    -- the match leaves its exclusions as functions to `False`, which `omega` does not read
    simp only [imp_false] at *
    have hunlisted : w.toNat / 2 ^ 24 = 0x00 ∨ 0x0C ≤ w.toNat / 2 ^ 24 := by omega
    exact iff_of_true ⟨.opcode, rfl⟩ (.inl hunlisted)

/-- Taking a fault records it, as 60_exceptions.md R190 says, and changes nothing else. -/
theorem recordsFault_raise (s : State) (f : FaultCode) : RecordsFault s (raise s f) f.code :=
  ⟨enterFault s f, rfl, by rw [enterFault_block]; rfl, sameExcept_enterFault s f, enterFault_host s f⟩

theorem issue_of_decode_ok {w : Word} {i : Instr} (s : State) (h : decode w = .ok i) : issue s w = exec i s := by
  rw [issue, h]

theorem issue_of_decode_error {w : Word} {e : Illegal} (s : State) (h : decode w = .error e) :
    issue s w = raise s .illcmd := by
  rw [issue, h]

/-- Settles O3: a word of none of the four clauses has a format that answers a command; every other word takes the
fault. -/
theorem illegalWordsRaiseIllcmd : Obligations.IllegalWordsRaiseIllcmd := by
  intro w
  refine ⟨exists_decode_eq_error_iff w, fun s ⟨e, he⟩ => ?_, fun hop => ?_, ?_⟩
  · rw [issue_of_decode_error s he]
    exact recordsFault_raise s .illcmd
  · exact ⟨_, decode_eq_ok_iff.2 (encode_of_opField_eq_08 ((toNat_opField w).trans hop))⟩
  · rintro (rfl | rfl) <;> exact ⟨.opcode, rfl⟩

/-! ### The match-and-mask table (R76) -/

/-- The bits that a mask covers are those of the pattern, for every word that matches. -/
theorem bits_eq_of_and_mask {w mask pattern : Word} {start len : Nat}
    (hmask : mask.extractLsb' start len = BitVec.allOnes len) (h : w &&& mask = pattern) :
    w.toNat / 2 ^ start % 2 ^ len = pattern.toNat / 2 ^ start % 2 ^ len := by
  have hbits : w.extractLsb' start len = pattern.extractLsb' start len := by
    rw [← h, BitVec.extractLsb'_and, hmask, BitVec.and_allOnes]
  simpa only [BitVec.extractLsb'_toNat, Nat.shiftRight_eq_div_pow] using congrArg BitVec.toNat hbits

/-- The mask of format N covers every bit. -/
theorem eq_of_and_mask {w pattern : Word} (h : w &&& 0xFFFFFFFF#32 = pattern) : pattern = w :=
  h.symm.trans (BitVec.and_allOnes (w := 32))

/-- The mask of format B leaves the byte open. -/
theorem wordB_of_and_mask {w : Word} {op : Byte} (h : w &&& 0xFFFFFF00#32 = wordB op 0#8) :
    wordB op (byteField w) = w := by
  have hbits := bits_eq_of_and_mask (start := 8) (len := 24) rfl h
  rw [toNat_wordB, BitVec.toNat_ofNat] at hbits
  rw [← BitVec.toNat_inj, toNat_wordB, toNat_byteField]
  omega

/-- The mask of format S leaves the flag open. -/
theorem wordS_of_and_mask {w : Word} {op : Byte} (h : w &&& 0xFFFFFFFE#32 = wordS op false) :
    wordS op (flagField w) = w := by
  have hbits := bits_eq_of_and_mask (start := 1) (len := 31) rfl h
  rw [toNat_wordS, Bool.toNat_false] at hbits
  rw [← BitVec.toNat_inj, toNat_wordS, toNat_flagField]
  omega

/-- A word that hits a row is the word of a command of the row's mnemonic. -/
theorem exists_encode_of_hit {w : Word} {r : OpRow} (hr : r ∈ opTable) (h : w &&& r.mask = r.pattern) :
    ∃ i, encode i = w ∧ mnemonicOf i = r.mnemonic := by
  have hop : opField w = opField r.pattern := Laws.EncodeHitsRow.opField_of_hit r hr w (beq_iff_eq.2 h)
  simp only [opTable, List.mem_cons, List.not_mem_nil, or_false] at hr
  rcases hr with rfl | rfl | rfl | rfl | rfl | rfl | rfl | rfl | rfl | rfl | rfl
  · exact ⟨.crcinit, eq_of_and_mask h, rfl⟩
  · exact ⟨.crcupd (byteField w), wordB_of_and_mask h, rfl⟩
  · exact ⟨.crcbuf, eq_of_and_mask h, rfl⟩
  · exact ⟨.verify, eq_of_and_mask h, rfl⟩
  · exact ⟨.validate, eq_of_and_mask h, rfl⟩
  · exact ⟨.rxclr, eq_of_and_mask h, rfl⟩
  · exact ⟨.rxpush (byteField w), wordB_of_and_mask h, rfl⟩
  · exact ⟨.encode (slaveField w) (regField w), encode_of_opField_eq_08 (congrArg BitVec.toNat hop), rfl⟩
  · exact ⟨.extract, eq_of_and_mask h, rfl⟩
  · exact ⟨.decode (flagField w), wordS_of_and_mask h, rfl⟩
  · exact ⟨.errclr, eq_of_and_mask h, rfl⟩

theorem encode_hits_own_row (i : Instr) : Laws.EncodeHitsRow.Statement i := by
  cases i with
  | crcinit => exact Laws.EncodeHitsRow.crcinit
  | crcupd b => exact Laws.EncodeHitsRow.crcupd b
  | crcbuf => exact Laws.EncodeHitsRow.crcbuf
  | verify => exact Laws.EncodeHitsRow.verify
  | validate => exact Laws.EncodeHitsRow.validate
  | rxclr => exact Laws.EncodeHitsRow.rxclr
  | rxpush b => exact Laws.EncodeHitsRow.rxpush b
  | encode slave reg => exact Laws.EncodeHitsRow.encode slave reg
  | extract => exact Laws.EncodeHitsRow.extract
  | decode sgn => exact Laws.EncodeHitsRow.decode sgn
  | errclr => exact Laws.EncodeHitsRow.errclr

/-- A word hits a row exactly when it is a command of the row's mnemonic: a command's word hits its own row alone. -/
theorem and_mask_eq_iff {r : OpRow} (hr : r ∈ opTable) (w : Word) :
    w &&& r.mask = r.pattern ↔ ∃ i, decode w = .ok i ∧ mnemonicOf i = r.mnemonic := by
  simp only [decode_eq_ok_iff]
  refine ⟨exists_encode_of_hit hr, ?_⟩
  rintro ⟨i, rfl, hi⟩
  have hhit : r.hit (encode i) = true := by rw [encode_hits_own_row i r hr, hi, decide_eq_true rfl]
  exact beq_iff_eq.1 hhit

/-- Every command has a row. -/
theorem exists_row (i : Instr) : ∃ r ∈ opTable, mnemonicOf i = r.mnemonic := by
  have hall : ∀ m ∈ opTable.map OpRow.mnemonic, ∃ r ∈ opTable, m = r.mnemonic := by decide
  refine hall _ ?_
  cases i <;> simp [opTable, mnemonicOf]

theorem opTable_mnemonics_distinct : opTable.Pairwise fun r q => r.mnemonic ≠ q.mnemonic := by decide

/-- Settles O4: a hit and the mnemonic of the decoded command are the same thing, and the rows' mnemonics differ. -/
theorem matchAndMaskDecide : Obligations.MatchAndMaskDecide := by
  refine ⟨fun w r hr => and_mask_eq_iff hr w, ?_, fun w hnone => ?_⟩
  · refine opTable_mnemonics_distinct.imp_of_mem fun {r q} hr hq hne w ⟨hitr, hitq⟩ => hne ?_
    obtain ⟨i, hi, hir⟩ := (and_mask_eq_iff hr w).1 hitr
    obtain ⟨j, hj, hjq⟩ := (and_mask_eq_iff hq w).1 hitq
    obtain rfl : i = j := Except.ok.inj (hi.symm.trans hj)
    exact hir.symm.trans hjq
  · refine exists_error_of_forall_ne_ok fun i hi => ?_
    obtain ⟨r, hr, hir⟩ := exists_row i
    exact hnone r hr ((and_mask_eq_iff hr w).2 ⟨i, hi, hir⟩)

/-! ### Operands -/

/-- Settles O5: the word is that of the command, whose fields are digits of its number. -/
theorem operandsAreFieldsOfTheWord : Obligations.OperandsAreFieldsOfTheWord := by
  refine ⟨fun w b h => ?_, fun w b h => ?_, fun w slave reg h => ?_, fun w sgn h => ?_⟩ <;>
    rw [← encodeDecodeRoundTrip w _ h, encode]
  · rw [toNat_wordB]; omega
  · rw [toNat_wordB]; omega
  · rw [toNat_wordE]; omega
  · rw [toNat_wordS]
    cases sgn <;> decide

/-! ### The assembler (R84, R85) -/

theorem asmByte_iff (n : Int) : asmByte n = true ↔ 0 ≤ n ∧ n ≤ 255 := decide_eq_true_iff

theorem all_asmByte {bs : List Int} (h : ∀ b ∈ bs, 0 ≤ b ∧ b ≤ 255) : bs.all asmByte = true :=
  List.all_eq_true.2 fun b hb => (asmByte_iff b).2 (h b hb)

theorem assemble_of_wellFormed {l : AsmLine} (h : l.wellFormed = true) : assemble l = .ok (expand l) := if_pos h

/-- A line whose check is `p` assembles to its words under `p` and is refused otherwise. -/
theorem assemble_eq_ite {l : AsmLine} {p : Prop} [Decidable p] {ws : List Word} (hp : l.wellFormed = true ↔ p)
    (hws : p → expand l = ws) : assemble l = if p then .ok ws else .error .range := by
  simp only [assemble, hp]
  split
  next h => rw [hws h]
  next => rfl

theorem toNat_ofInt_byte {n : Int} (h : 0 ≤ n ∧ n ≤ 255) : ((BitVec.ofInt 8 n).toNat : Int) = n := by
  rw [BitVec.toNat_ofInt]
  omega

theorem toNat_ofInt_half (n : Int) : ((BitVec.ofInt 16 n).toNat : Int) = n % 65536 := by
  rw [BitVec.toNat_ofInt]
  omega

theorem eq_ofInt_of_toNat {w : Word} {n : Int} (h : (w.toNat : Int) = n) : w = BitVec.ofInt 32 n := by
  subst h
  simp

theorem crcupdWord_eq_ofInt {n : Int} (h : 0 ≤ n ∧ n ≤ 255) : crcupdWord n = BitVec.ofInt 32 (0x02000000 + n) := by
  apply eq_ofInt_of_toNat
  rw [crcupdWord, encode, toNat_wordB, Nat.cast_add, toNat_ofInt_byte h]
  rfl

theorem rxpushWord_eq_ofInt {n : Int} (h : 0 ≤ n ∧ n ≤ 255) : rxpushWord n = BitVec.ofInt 32 (0x07000000 + n) := by
  apply eq_ofInt_of_toNat
  rw [rxpushWord, encode, toNat_wordB, Nat.cast_add, toNat_ofInt_byte h]
  rfl

theorem encodeWord_eq_ofInt {n : Int} (h : 0 ≤ n ∧ n ≤ 255) (m : Int) :
    encode (.encode (BitVec.ofInt 8 n) (BitVec.ofInt 16 m)) = BitVec.ofInt 32 (0x08000000 + n * 65536 + m % 65536) := by
  apply eq_ofInt_of_toNat
  rw [encode, toNat_wordE, Nat.cast_add, Nat.cast_add, Nat.cast_mul _ 65536, toNat_ofInt_byte h, toNat_ofInt_half]
  rfl

/-- Settles O7: an operand in range is a digit of the word. -/
theorem assemblerOperandRanges : Obligations.AssemblerOperandRanges := by
  intro n m
  refine ⟨assemble_eq_ite (asmByte_iff n) fun h => ?_, assemble_eq_ite (asmByte_iff n) fun h => ?_,
    assemble_eq_ite (by simp [AsmLine.wellFormed, asmByte_iff]) fun h => ?_⟩
  · rw [expand, crcupdWord_eq_ofInt h]
  · rw [expand, rxpushWord_eq_ofInt h]
  · rw [expand, encodeWord_eq_ofInt h.1]

/-- Settles O8: with the bytes in range each word is that of its byte, and the order is the expansion's. -/
theorem pseudoInstructionsExpand : Obligations.PseudoInstructionsExpand := by
  intro bs h upd push
  have hupd : bs.map crcupdWord = upd := List.map_congr_left fun b hb => crcupdWord_eq_ofInt (h b hb)
  have hpush : bs.map rxpushWord = push := List.map_congr_left fun b hb => rxpushWord_eq_ofInt (h b hb)
  have hall := all_asmByte h
  rw [← hupd, ← hpush]
  refine ⟨?_, ?_, ?_, ?_, ?_, ?_⟩ <;> exact assemble_of_wellFormed hall

/-! ### Sample words, and the step -/

/-- Settles O6, by running the decoder on the words of 95_test_vectors.md VW. -/
theorem sampleWordsDecode : Obligations.SampleWordsDecode := by
  unfold Obligations.SampleWordsDecode
  decide

theorem step_of_pending {s : State} {a : HostAction} {as : List HostAction} (h : s.host.pending = a :: as) :
    step s = perform a (s.withPending as) := by
  rw [step, stepHost, h]
  rfl

theorem step_of_pending_cmd {s : State} {w : Word} {as : List HostAction} (h : s.host.pending = .write 0x00 4 w :: as) :
    step s = issue (s.withPending as) w := step_of_pending h

/-- Settles O55: offset 0x00 is CMD, whose write issues the word. -/
theorem stepRunsDecodedCommand : Obligations.StepRunsDecodedCommand := by
  refine ⟨fun s a as h => step_of_pending h, fun s w i as h hw => ?_, fun s w e as h hw => ?_, fun s h => ?_⟩
  · rw [step_of_pending_cmd h, issue_of_decode_ok _ hw]
  · rw [step_of_pending_cmd h, issue_of_decode_error _ hw]
    exact recordsFault_raise _ .illcmd
  · rw [step, stepHost, h]

end Sys2Proof.Machine

/-! PROOFS. The CRC engine (40_crc_engine.md): a round loses no information, the table form, the residue, what
`verify` says through the residue, and the commands CRCINIT, CRCUPD, CRCBUF and VERIFY. -/

namespace Sys2Proof.Machine

/-! ### The two bytes of an accumulator (R103) -/

@[simp] theorem crcLo_xor (c d : Half) : crcLo (c ^^^ d) = crcLo c ^^^ crcLo d := BitVec.extractLsb'_xor

@[simp] theorem crcHi_xor (c d : Half) : crcHi (c ^^^ d) = crcHi c ^^^ crcHi d := BitVec.extractLsb'_xor

theorem toNat_crcLo (c : Half) : (crcLo c).toNat = c.toNat % 256 := by
  rw [crcLo, BitVec.extractLsb'_toNat, Nat.shiftRight_zero]

theorem toNat_crcHi (c : Half) : (crcHi c).toNat = c.toNat / 256 := by
  rw [crcHi, BitVec.extractLsb'_toNat, Nat.shiftRight_eq_div_pow]
  have := c.isLt
  omega

@[simp] theorem toNat_setWidth_byte (b : Byte) : (b.setWidth 16 : Half).toNat = b.toNat :=
  BitVec.toNat_setWidth_of_le (by decide)

@[simp] theorem crcLo_setWidth (b : Byte) : crcLo (b.setWidth 16) = b := by
  apply BitVec.eq_of_toNat_eq
  rw [toNat_crcLo, toNat_setWidth_byte]
  exact Nat.mod_eq_of_lt b.isLt

@[simp] theorem crcHi_setWidth (b : Byte) : crcHi (b.setWidth 16) = 0x00#8 := by
  apply BitVec.eq_of_toNat_eq
  rw [toNat_crcHi, toNat_setWidth_byte]
  exact Nat.div_eq_of_lt b.isLt

theorem setWidth_byte_inj {b d : Byte} : (b.setWidth 16 : Half) = d.setWidth 16 ↔ b = d :=
  ⟨fun h => by simpa using congrArg crcLo h, congrArg _⟩

theorem shiftRight_eight (c : Half) : c >>> 8 = (crcHi c).setWidth 16 := by
  apply BitVec.eq_of_toNat_eq
  rw [toNat_setWidth_byte, toNat_crcHi, BitVec.toNat_ushiftRight, Nat.shiftRight_eq_div_pow]

@[simp] theorem crcLo_append (hi lo : Byte) : crcLo (hi ++ lo) = lo := BitVec.extractLsb'_append_eq_right

@[simp] theorem crcHi_append (hi lo : Byte) : crcHi (hi ++ lo) = hi := BitVec.extractLsb'_append_eq_left

/-- An accumulator is its high byte over 0x00, exclusive or its low byte. -/
theorem append_zero_xor_setWidth (c : Half) : (crcHi c ++ 0x00#8) ^^^ (crcLo c).setWidth 16 = c :=
  crc_ext (by simp) (by simp)

/-! ### Rounds (R100, R101) -/

theorem getLsbD_zero_iff (c : Half) : c.getLsbD 0 = true ↔ c.toNat % 2 = 1 := by
  rw [BitVec.getLsbD, Nat.testBit_zero, decide_eq_true_iff]

theorem crcBit_of_odd {c : Half} (h : c.toNat % 2 = 1) : crcBit c = (c >>> 1) ^^^ Config.poly :=
  if_pos ((getLsbD_zero_iff c).2 h)

theorem crcBit_of_even {c : Half} (h : c.toNat % 2 = 0) : crcBit c = c >>> 1 :=
  if_neg (by rw [getLsbD_zero_iff]; omega)

theorem toNat_shiftRight_one (c : Half) : (c >>> 1).toNat = c.toNat / 2 := by
  rw [BitVec.toNat_ushiftRight, Nat.shiftRight_one]

/-- Settles O9: bit 0 is the parity, and the shift is a division by 2. -/
theorem crcRoundShiftsRight : Obligations.CrcRoundShiftsRight := by
  refine fun c => ⟨fun hodd => ?_, fun heven => ?_⟩
  · rw [crcBit_of_odd hodd, BitVec.toNat_xor, toNat_shiftRight_one]
    rfl
  · rw [crcBit_of_even heven, toNat_shiftRight_one]

theorem crcRounds_eq_iterate (n : Nat) (c : Half) : crcRounds n c = crcBit^[n] c := by
  induction n generalizing c with
  | zero => rfl
  | succ n ih => exact ih (crcBit c)

theorem crc16_concat (bs : List Byte) (b : Byte) : crc16 (bs ++ [b]) = crcByte (crc16 bs) b := crc16_append bs [b]

/-- Settles O10: the model's definitions, with the rounds as an iteration and the two bytes as digits. -/
theorem crcOfSequenceByteByByte : Obligations.CrcOfSequenceByteByByte := by
  refine ⟨fun c b => ?_, rfl, crc16_concat, fun c => ⟨toNat_crcLo c, toNat_crcHi c⟩, fun bs => rfl⟩
  rw [BitVec.ofNat_toNat]
  exact crcRounds_eq_iterate 8 _

/-! ### A round loses no information (R105 (f)) -/

/-- The bit shifted out comes back as bit 15, which the shift leaves 0; so only 0 goes to 0. -/
theorem eq_zero_of_crcBit_eq_zero {c : Half} (h : crcBit c = 0#16) : c = 0#16 := by
  have hshift := toNat_shiftRight_one c
  rcases Nat.mod_two_eq_zero_or_one c.toNat with heven | hodd
  · rw [crcBit_of_even heven] at h
    rw [h, BitVec.toNat_ofNat] at hshift
    exact BitVec.eq_of_toNat_eq (by rw [BitVec.toNat_ofNat]; omega)
  · rw [crcBit_of_odd hodd, BitVec.xor_eq_zero_iff] at h
    rw [h, show Config.poly.toNat = 0xA001 from rfl] at hshift
    have := c.isLt
    omega

theorem crcRounds_eq_zero_iff {n : Nat} {c : Half} : crcRounds n c = 0#16 ↔ c = 0#16 := by
  refine ⟨fun h => ?_, fun h => h ▸ crcRounds_zero n⟩
  induction n generalizing c with
  | zero => exact h
  | succ n ih => exact eq_zero_of_crcBit_eq_zero (ih h)

/-- The rounds being linear, two accumulators that meet differ by one that goes to 0. -/
theorem crcRounds_inj {n : Nat} {c d : Half} : crcRounds n c = crcRounds n d ↔ c = d := by
  rw [← BitVec.xor_eq_zero_iff, ← crcRounds_xor, crcRounds_eq_zero_iff, BitVec.xor_eq_zero_iff]

theorem crcByte_inj_byte {c : Half} {b d : Byte} : crcByte c b = crcByte c d ↔ b = d := by
  rw [crcByte, crcByte, crcRounds_inj, BitVec.xor_right_inj, setWidth_byte_inj]

theorem crcByte_inj_acc {c d : Half} {b : Byte} : crcByte c b = crcByte d b ↔ c = d := by
  rw [crcByte, crcByte, crcRounds_inj, BitVec.xor_left_inj]

theorem crcByte_eq_zero_iff {c : Half} {b : Byte} : crcByte c b = 0#16 ↔ c = b.setWidth 16 := by
  rw [crcByte, crcRounds_eq_zero_iff, BitVec.xor_eq_zero_iff]

theorem crcFrom_inj {c d : Half} (bs : List Byte) : crcFrom c bs = crcFrom d bs ↔ c = d := by
  induction bs generalizing c d with
  | nil => rfl
  | cons b bs ih => rw [crcFrom_cons, crcFrom_cons, ih, crcByte_inj_acc]

/-- Settles O16: the eight rounds are one-to-one, and so is the exclusive or before them. -/
theorem crcByteOneToOne : Obligations.CrcByteOneToOne :=
  ⟨fun _ _ _ => crcByte_inj_byte.1, fun _ _ _ => crcByte_inj_acc.1⟩

/-! ### The table form (R105 (a), (b)) -/

/-- Above zero bits the rounds only shift down. -/
theorem crcRounds_of_low_bits_zero (n : Nat) {c : Half} (h : c.toNat % 2 ^ n = 0) : crcRounds n c = c >>> n := by
  induction n generalizing c with
  | zero => rfl
  | succ n ih =>
    rw [Nat.pow_succ', Nat.mod_mul] at h
    have heven : c.toNat % 2 = 0 := by omega
    have hrest : (c >>> 1).toNat % 2 ^ n = 0 := by rw [toNat_shiftRight_one]; omega
    rw [crcRounds, crcBit_of_even heven, ih hrest, ← BitVec.shiftRight_add, Nat.add_comm]

theorem crcRounds_append_zero (b : Byte) : crcRounds Config.rounds (b ++ 0x00#8) = b.setWidth 16 := by
  have hlow : (b ++ 0x00#8 : Half).toNat % 2 ^ 8 = 0 := by
    rw [toNat_append_eq_add, BitVec.toNat_ofNat]
    omega
  rw [Config.rounds, crcRounds_of_low_bits_zero 8 hlow, shiftRight_eight, crcHi_append]

@[simp] theorem crcTab_zero : crcTab 0x00#8 = 0x0000#16 := crcRounds_zero _

theorem crcTab_xor (x y : Byte) : crcTab (x ^^^ y) = crcTab x ^^^ crcTab y := by
  rw [crcTab, BitVec.setWidth_xor, crcRounds_xor]
  rfl

/-- The high byte of an accumulator shifts down, the low byte selects the table entry. -/
theorem crcRounds_eq_table (c : Half) :
    crcRounds Config.rounds c = (crcHi c).setWidth 16 ^^^ crcTab (crcLo c) := by
  conv_lhs => rw [← append_zero_xor_setWidth c, crcRounds_xor, crcRounds_append_zero]
  rfl

theorem crcByte_eq_table (c : Half) (b : Byte) :
    crcByte c b = (crcHi c).setWidth 16 ^^^ crcTab (crcLo c ^^^ b) := by
  rw [crcByte, crcRounds_eq_table]
  simp

/-- An entry with a zero high byte is what the rounds leave of its low byte over 0x00; so its index is 0. -/
theorem eq_zero_of_crcHi_crcTab {x : Byte} (h : crcHi (crcTab x) = 0x00#8) : x = 0x00#8 := by
  have htab : crcTab x = (crcLo (crcTab x)).setWidth 16 := crc_ext (by simp) (by simp [h])
  have hidx : (x.setWidth 16 : Half) = crcLo (crcTab x) ++ 0x00#8 :=
    crcRounds_inj.1 (htab.trans (crcRounds_append_zero _).symm)
  simpa using congrArg crcLo hidx

/-- Settles O12: the index of the table is the low byte of the accumulator exclusive or the byte; entries with equal
high bytes differ, the table being linear, by an entry with a zero high byte. -/
theorem crcByteTableForm : Obligations.CrcByteTableForm := by
  refine ⟨fun c b => ?_, crcTab_zero, fun x y h => ?_⟩
  · rw [shiftRight_eight, crcByte_eq_table, ← crcLo, crcLo_xor, crcLo_setWidth]
  · rw [← BitVec.xor_eq_zero_iff] at h ⊢
    rw [← crcHi_xor, ← crcTab_xor] at h
    exact eq_zero_of_crcHi_crcTab h

/-! ### The residue (R105 (c), (d)) -/

/-- The one byte after which the accumulator's low byte alone is left is the low checksum byte. -/
theorem crcByte_eq_setWidth_iff {c : Half} {lo hi : Byte} :
    crcByte c lo = hi.setWidth 16 ↔ lo = crcLo c ∧ hi = crcHi c := by
  have hlow : crcByte c (crcLo c) = (crcHi c).setWidth 16 := by simp [crcByte_eq_table]
  refine ⟨fun h => ?_, fun ⟨hlo, hhi⟩ => by rw [hlo, hhi, hlow]⟩
  have hidx : crcLo c ^^^ lo = 0x00#8 :=
    eq_zero_of_crcHi_crcTab (by simpa [crcByte_eq_table] using congrArg crcHi h)
  obtain rfl : lo = crcLo c := (BitVec.xor_eq_zero_iff.1 hidx).symm
  exact ⟨rfl, setWidth_byte_inj.1 (h.symm.trans hlow)⟩

/-- Two bytes bring the accumulator to 0 exactly when they are its checksum. -/
theorem crcByte_crcByte_eq_zero_iff {c : Half} {lo hi : Byte} :
    crcByte (crcByte c lo) hi = 0x0000#16 ↔ lo = crcLo c ∧ hi = crcHi c := by
  rw [crcByte_eq_zero_iff, crcByte_eq_setWidth_iff]

theorem crc16_append_two (bs : List Byte) (lo hi : Byte) :
    crc16 (bs ++ [lo, hi]) = crcByte (crcByte (crc16 bs) lo) hi := crc16_append bs [lo, hi]

/-- Settles O13: the low checksum byte leaves the high one, which cancels itself. -/
theorem crcResidueIsZero : Obligations.CrcResidueIsZero := by
  intro bs
  rw [crc16_concat, checksum, crc16_append_two]
  exact ⟨crcByte_eq_setWidth_iff.2 ⟨rfl, rfl⟩, crcByte_crcByte_eq_zero_iff.2 ⟨rfl, rfl⟩⟩

theorem verify_append_eq_decide (bs : List Byte) (lo hi : Byte) :
    verify (bs ++ [lo, hi]) = some (decide (lo = crcLo (crc16 bs) ∧ hi = crcHi (crc16 bs))) := by
  rw [verify_append, Bool.decide_and]
  rfl

/-- `verify` of two bytes or more is the test of the residue. -/
theorem verify_eq_residue {bs : List Byte} (h : 2 ≤ bs.length) :
    verify bs = some (decide (crc16 bs = 0x0000#16)) := by
  obtain ⟨body, lo, hi, rfl⟩ := exists_body h
  rw [verify_append_eq_decide, crc16_append_two]
  simp only [crcByte_crcByte_eq_zero_iff]

theorem two_le_of_verify {bs : List Byte} {x : Bool} (h : verify bs = some x) : 2 ≤ bs.length := by
  by_contra hlt
  rw [verify_of_lt (Nat.not_le.1 hlt)] at h
  cases h

theorem crc16_of_verify {bs : List Byte} (h : verify bs = some true) : crc16 bs = 0x0000#16 := by
  rw [verify_eq_residue (two_le_of_verify h)] at h
  exact of_decide_eq_true (Option.some.inj h)

/-- Settles O14: the two trailing bytes are the checksum exactly when they bring the accumulator to 0. -/
theorem verifyIffResidueZero : Obligations.VerifyIffResidueZero := by
  intro bs h
  rw [verify_eq_residue h, Option.some_inj, decide_eq_true_iff]

theorem verify_two_iff (x y : Byte) : verify [x, y] = some true ↔ x = 0xFF#8 ∧ y = 0xFF#8 := by
  rw [← List.nil_append [x, y], verify_append_eq_decide, Option.some_inj, decide_eq_true_iff]
  rfl

/-- Settles O11: the checksum of no bytes is `FF FF`. -/
theorem verifyComparesTrailingBytes : Obligations.VerifyComparesTrailingBytes :=
  ⟨verify_append_eq_decide, fun _ => verify_of_lt, verify_two_iff⟩

/-! ### Bytes 0x00 and flipped bits (R105 (e), (f), R111) -/

theorem crcByte_zero_eq_zero_iff {b : Byte} : crcByte 0x0000#16 b = 0x0000#16 ↔ b = 0x00#8 := by
  rw [crcByte_eq_zero_iff, eq_comm]
  exact setWidth_byte_inj (d := 0x00#8)

theorem crcFrom_zero_replicate (n : Nat) : crcFrom 0x0000#16 (List.replicate n 0x00#8) = 0x0000#16 := by
  induction n with
  | zero => rfl
  | succ n ih => rw [List.replicate_succ, crcFrom_cons, crcByte_zero_eq_zero_iff.2 rfl, ih]

/-- Bytes 0x00 keep a residue of 0 and, being one-to-one, every other residue from 0. -/
theorem crc16_append_zeros_eq_zero_iff (bs : List Byte) (n : Nat) :
    crc16 (bs ++ List.replicate n 0x00#8) = 0x0000#16 ↔ crc16 bs = 0x0000#16 := by
  have h := crcFrom_inj (c := crc16 bs) (d := 0x0000#16) (List.replicate n 0x00#8)
  rwa [crcFrom_zero_replicate, ← crc16_append] at h

/-- Settles O15: the residue is 0 with the 0x00 bytes exactly when it is 0 without. -/
theorem verifyZeroExtension : Obligations.VerifyZeroExtension := by
  intro bs n h
  rw [verify_eq_residue h, verify_eq_residue (by rw [List.length_append]; omega)]
  simp only [crc16_append_zeros_eq_zero_iff]

/-- Another byte in one place gives another residue. -/
theorem crc16_modify_inj {bs : List Byte} {i : Nat} {f : Byte → Byte} (hi : i < bs.length)
    (h : crc16 (bs.modify i f) = crc16 bs) : f bs[i] = bs[i] := by
  have hbs : bs = bs.take i ++ bs[i] :: bs.drop (i + 1) := by simp
  rw [List.modify_eq_take_cons_drop hi] at h
  conv at h => rhs; rw [hbs]
  rw [crc16_append, crc16_append, crcFrom_cons, crcFrom_cons, crcFrom_inj, crcByte_inj_byte] at h
  exact h

theorem xor_bit_ne (x : Byte) {k : Nat} (hk : k < 8) : x ^^^ (1#8 <<< k) ≠ x := by
  intro h
  have hbit := congrArg (fun y => y.getLsbD k) h
  simp [hk] at hbit

/-- Settles O17: the residue of a valid frame is 0, and with a bit inverted it is another one. -/
theorem singleBitFlipsFailVerify : Obligations.SingleBitFlipsFailVerify := by
  refine ⟨?_, by decide +kernel, fun bs i k hv hi hk => ?_⟩
  · rw [checksum, verify_append]
    simp
  · have hlen : 2 ≤ (flipBit bs i k).length := by
      rw [flipBit, List.length_modify]
      exact two_le_of_verify hv
    rw [verify_eq_residue hlen, Option.some_inj, decide_eq_false_iff_not, ← crc16_of_verify hv]
    exact fun h => xor_bit_ne _ hk (crc16_modify_inj hi h)

/-- The low bytes of the values that a 0x00 byte leaves as they are: an entry of the table gives the high byte, and the
low byte must come out again. -/
theorem low_byte_of_fixed : ∀ l : Byte, crcHi (crcTab l) ^^^ crcLo (crcTab l) = l → l = 0x00#8 ∨ l = 0x01#8 := by
  decide +kernel

/-- Settles O18: the low byte of a fixed value is 0x00 or 0x01, and its high byte that of the low byte's table entry. -/
theorem zeroByteFixedPoints : Obligations.ZeroByteFixedPoints := by
  intro c
  refine ⟨fun h => ?_, by rintro (rfl | rfl) <;> decide⟩
  rw [crcByte_eq_table] at h
  have hhi : crcHi (crcTab (crcLo c)) = crcHi c := by simpa using congrArg crcHi h
  have hlo : crcHi c ^^^ crcLo (crcTab (crcLo c)) = crcLo c := by simpa using congrArg crcLo h
  rw [← hhi] at hlo
  rw [← crcHi_append_crcLo c, ← hhi]
  rcases low_byte_of_fixed _ hlo with hl | hl <;> rw [hl] <;> decide

/-! ### CRCINIT and CRCUPD (R106, R107) -/

/-- A reserved bit set in a word of format N: the second clause of R74. -/
theorem formatNFaults {op : Nat} (hop : op ∈ [0x01, 0x03, 0x04, 0x05, 0x06, 0x09, 0x0B]) : FormatNFaults op := by
  rintro w s rfl hres
  exact (illegalWordsRaiseIllcmd w).2.1 s ((exists_decode_eq_error_iff w).2 (.inr (.inl ⟨hop, hres⟩)))

/-- A reserved bit set in a word of format B: the third clause of R74. -/
theorem formatBFaults {op : Nat} (hop : op ∈ [0x02, 0x07]) : FormatBFaults op := by
  rintro w s rfl hres
  exact (illegalWordsRaiseIllcmd w).2.1 s ((exists_decode_eq_error_iff w).2 (.inr (.inr (.inl ⟨hop, hres⟩))))

theorem exec_crcinit (s : State) : exec .crcinit s = .next (s.setBlock (s.block.setCrc Config.crcInit)) := rfl

theorem exec_crcupd (b : Byte) (s : State) :
    exec (.crcupd b) s = .next (s.setBlock (s.block.setCrc (crcByte s.block.crc b))) := rfl

/-- Settles O19: the value loaded depends on nothing, so loading it again changes nothing. -/
theorem crcinitLoadsInitialValue : Obligations.CrcinitLoadsInitialValue :=
  ⟨decode_eq_ok_iff.2 rfl, fun s => ⟨_, exec_crcinit s, rfl, sameExcept_setCrc _ _, rfl, rfl⟩,
    formatNFaults (by decide)⟩

/-- A word of format B is its opcode's word plus the byte. -/
theorem wordB_eq_add (op b : Byte) : wordB op b = wordN op + b.setWidth 32 := by
  apply BitVec.eq_of_toNat_eq
  rw [toNat_wordB, BitVec.toNat_add, toNat_wordN, BitVec.toNat_setWidth]
  omega

/-- Settles O20: one `crc_byte` from the accumulator held, and CRC alone is written. -/
theorem crcupdFoldsOneByte : Obligations.CrcupdFoldsOneByte :=
  ⟨fun b => decode_eq_ok_iff.2 (wordB_eq_add 0x02#8 b), fun s b => ⟨_, exec_crcupd b s, rfl, sameExcept_setCrc _ _, rfl⟩,
    formatBFaults (by decide)⟩

theorem issue_encode (s : State) (i : Instr) : issue s (encode i) = exec i s :=
  issue_of_decode_ok s (decodeEncodeRoundTrip i)

theorem issueAll_cons_of_next {s t : State} {w : Word} (ws : List Word) (h : issue s w = .next t) :
    issueAll s (w :: ws) = issueAll t ws := by
  rw [issueAll, h]

/-- A run of CRCUPD folds its bytes in order. -/
theorem issueAll_crcupd (bs : List Byte) (s : State) :
    issueAll s (bs.map fun b => encode (.crcupd b)) = .next (s.setBlock (s.block.setCrc (crcFrom s.block.crc bs))) := by
  induction bs generalizing s with
  | nil => rfl
  | cons b bs ih =>
    rw [List.map_cons, issueAll_cons_of_next _ ((issue_encode s _).trans (exec_crcupd b s)), ih]
    rfl

/-- Settles O21: CRCINIT puts the accumulator where `crc16` starts. -/
theorem streamingCrcIsCrc16 : Obligations.StreamingCrcIsCrc16 := by
  intro s bs
  rw [issueAll_cons_of_next _ ((issue_encode s _).trans (exec_crcinit s)), issueAll_crcupd]
  exact ⟨_, rfl, rfl, (sameExcept_setCrc _ _).trans (sameExcept_setCrc _ _), rfl⟩

/-! ### CRCBUF and VERIFY (R108, R109) -/

theorem exec_crcbuf {s : State} (h : RxInRange s.block) :
    exec .crcbuf s = .next (s.setBlock (s.block.setCrc (crc16 s.block.rx))) := exec_of_inRange .crcbuf h

/-- Settles O22: an empty buffer is the empty sequence, and a valid frame has the residue 0. -/
theorem crcbufComputesReceiveBuffer : Obligations.CrcbufComputesReceiveBuffer := by
  refine ⟨decode_eq_ok_iff.2 rfl, fun s h => ?_, formatNFaults (by decide)⟩
  refine ⟨_, exec_crcbuf h, rfl, fun hempty => ?_, crc16_of_verify, sameExcept_setCrc _ _, rfl⟩
  have hrx : s.block.rx = [] := List.eq_nil_of_length_eq_zero ((Block.rx_length _).trans hempty)
  rw [State.setBlock_block, Block.setCrc_crc, hrx]
  rfl

theorem exec_verify_of_lt {s : State} (h : s.block.rxlen.toNat < 2) : exec .verify s = raise s .short := if_pos h

theorem exec_verify_of_le {s : State} (hrx : RxInRange s.block) (h : 2 ≤ s.block.rxlen.toNat) :
    exec .verify s = .next (s.setBlock (effect .verify s.block)) := by
  rw [exec_of_inRange .verify hrx, faultOf, if_neg (Nat.not_lt.2 h)]

/-- V after the effect of VERIFY on two bytes or more. -/
theorem verify_rx_eq_effect {b : Block} (h : 2 ≤ b.rx.length) : verify b.rx = some (effect .verify b).v :=
  verify_of_le h

/-- When VERIFY answers a next state and the buffer holds two bytes or more, V is `verify(RX)`. -/
theorem verify_rx_of_exec_verify {s t : State} (hlen : 2 ≤ s.block.rx.length) (h : exec .verify s = .next t) :
    verify s.block.rx = some t.block.v := by
  rcases exec_next_cases h with ⟨f, hf, -⟩ | ⟨-, rfl⟩
  · rw [faultOf, if_neg (Nat.not_lt.2 (Block.rx_length _ ▸ hlen))] at hf
    cases hf
  · exact verify_rx_eq_effect hlen

/-- No byte leaves the initial value as it is. -/
theorem crcByte_crcInit_ne : ∀ x : Byte, crcByte Config.crcInit x ≠ Config.crcInit := by
  decide +kernel

/-- A byte after a valid frame keeps it valid only if it is 0x00. -/
theorem verify_concat_of_verify {bs : List Byte} (h : verify bs = some true) (x : Byte) :
    verify (bs ++ [x]) = some (decide (x = 0x00#8)) := by
  have hlen := two_le_of_verify h
  rw [verify_eq_residue (by rw [List.length_append]; omega), crc16_concat, crc16_of_verify h]
  simp only [crcByte_zero_eq_zero_iff]

/-- A byte before a valid frame starts the frame's bytes from another accumulator. -/
theorem verify_cons_of_verify {bs : List Byte} (h : verify bs = some true) (x : Byte) : verify (x :: bs) = some false := by
  have hlen := two_le_of_verify h
  rw [verify_eq_residue (by rw [List.length_cons]; omega), Option.some_inj, decide_eq_false_iff_not, ← crc16_of_verify h]
  exact fun hx => crcByte_crcInit_ne x ((crcFrom_inj bs).1 hx)

/-- Settles O23: SHORT under two bytes; from there on V is `verify(RX)`, which the residue decides. -/
theorem verifySetsVAndCrc : Obligations.VerifySetsVAndCrc := by
  refine ⟨decode_eq_ok_iff.2 rfl, fun s h => ?_, fun s hrx h => ?_, fun s t x y hxy h => ?_,
    fun s t bs x hv h => ⟨fun hbs => ?_, fun hbs => ?_⟩, formatNFaults (by decide)⟩
  · rw [exec_verify_of_lt h]
    exact recordsFault_raise s .short
  · refine ⟨_, exec_verify_of_le hrx h, verify_rx_eq_effect (by rwa [Block.rx_length]), ?_, ?_, rfl⟩
    · rw [← Block.rx_length]
      rfl
    · exact (sameExcept_setCrc_setV _ _ _).mono (by simp)
  · have hver := verify_rx_of_exec_verify (by simp [hxy]) h
    rw [hxy] at hver
    rw [← verify_two_iff, hver, Option.some_inj]
  · have hlen := two_le_of_verify hv
    have hver := verify_rx_of_exec_verify (by rw [hbs, List.length_append]; omega) h
    rw [hbs, verify_concat_of_verify hv, Option.some_inj] at hver
    rw [← hver, decide_eq_true_iff]
  · have hlen := two_le_of_verify hv
    have hver := verify_rx_of_exec_verify (by rw [hbs, List.length_cons]; omega) h
    rw [hbs, verify_cons_of_verify hv, Option.some_inj] at hver
    exact hver.symm

end Sys2Proof.Machine

/-! PROOFS. The receive buffer (41_rx_buffer.md): RXCLR, one RXPUSH with room and without, and a run of RXPUSH, which
appends its bytes in order until the buffer is full. -/

namespace Sys2Proof.Machine

/-! ### RXCLR (R120) -/

theorem exec_rxclr (s : State) :
    exec .rxclr s = .next (s.setBlock (s.block.setRx (Memory.holding .rx []) (lenOf 0))) := rfl

/-- Settles O24: RXBUF then holds no byte and RXLEN is 0; the frame buffer is not written. -/
theorem rxclrEmptiesReceiveBuffer : Obligations.RxclrEmptiesReceiveBuffer :=
  ⟨decode_eq_ok_iff.2 rfl,
    fun s => ⟨_, exec_rxclr s, toNat_lenOf_zero, Block.rx_setRx s.block (bs := []) (Nat.zero_le _),
      Block.frame_congr rfl rfl, sameExcept_setRx _ _ _, rfl⟩,
    formatNFaults (by decide)⟩

/-! ### One RXPUSH (R121) -/

theorem exec_rxpush_of_full {s : State} (b : Byte) (h : s.block.rxlen.toNat = Config.rxCap) :
    exec (.rxpush b) s = raise s .rxovf := if_pos h

theorem exec_rxpush_of_lt {s : State} (b : Byte) (h : s.block.rxlen.toNat < Config.rxCap) :
    exec (.rxpush b) s = .next (s.setBlock (effect (.rxpush b) s.block)) := by
  rw [exec_of_inRange (.rxpush b) h.le, faultOf, if_neg h.ne]

theorem effect_rxpush_rxlen {c : Block} (b : Byte) (h : c.rxlen.toNat < Config.rxCap) :
    (effect (.rxpush b) c).rxlen.toNat = c.rxlen.toNat + 1 := toNat_add_one h

theorem sameExcept_effect_rxpush (c : Block) (b : Byte) : SameExcept [.rxbuf, .rxlen] c (effect (.rxpush b) c) :=
  sameExcept_setRx _ _ _

/-- The byte stored is the last of RX, and those before it are below the index written. -/
theorem effect_rxpush_rx {c : Block} (b : Byte) (h : c.rxlen.toNat < Config.rxCap) :
    (effect (.rxpush b) c).rx = c.rx ++ [b] := by
  have hlast : (effect (.rxpush b) c).rxByte c.rxlen.toNat = b :=
    Memory.byteAt_of_read (Memory.read_write_same _ _ _ _)
  have hbefore : ∀ i ∈ List.range c.rxlen.toNat, (effect (.rxpush b) c).rxByte i = c.rxByte i := by
    intro i hi
    have hne : i ≠ c.rxlen.toNat := (List.mem_range.1 hi).ne
    exact congrArg (Option.getD · _) (Memory.read_write_other .rx c.rxbuf b hne)
  rw [Block.rx, effect_rxpush_rxlen b h, List.range_succ, List.map_append, List.map_congr_left hbefore,
    List.map_singleton, hlast, Block.rx]

/-- Settles O25: a full buffer takes the fault; otherwise one byte is written at the index RXLEN. -/
theorem rxpushAppendsOneByte : Obligations.RxpushAppendsOneByte := by
  refine ⟨fun b => decode_eq_ok_iff.2 (wordB_eq_add 0x07#8 b), fun s b h => ?_, fun s b h => ?_,
    formatBFaults (by decide)⟩
  · rw [exec_rxpush_of_full b h]
    exact recordsFault_raise s .rxovf
  · exact ⟨_, exec_rxpush_of_lt b h, effect_rxpush_rxlen b h, Memory.read_write_same _ _ _ _,
      fun _ ha => Memory.read_write_other _ _ _ ha, effect_rxpush_rx b h, sameExcept_effect_rxpush _ _, rfl⟩

/-! ### A run of RXPUSH (R122) -/

/-- What pushing `bs` does to the machine: RX takes the bytes that fit, and a byte that does not fit records RXOVF. -/
structure Pushed (bs : List Byte) (s t : State) : Prop where
  rx : t.block.rx = (s.block.rx ++ bs).take Config.rxCap
  err_of_fits : s.block.rxlen.toNat + bs.length ≤ Config.rxCap → t.block.err = s.block.err
  err_of_overflow : Config.rxCap < s.block.rxlen.toNat + bs.length → t.block.err = errAfter s.block.err 2#4
  same : SameExcept [.rxbuf, .rxlen, .err] s.block t.block
  host : t.host = s.host

theorem Pushed.rxlen {bs : List Byte} {s t : State} (h : Pushed bs s t) :
    t.block.rxlen.toNat = min Config.rxCap (s.block.rxlen.toNat + bs.length) := by
  rw [← Block.rx_length, h.rx, List.length_take, List.length_append, Block.rx_length]

theorem Pushed.rxInRange {bs : List Byte} {s t : State} (h : Pushed bs s t) : RxInRange t.block :=
  h.rxlen.trans_le (Nat.min_le_left _ _)

theorem Pushed.nil {s : State} (h : RxInRange s.block) : Pushed [] s s where
  rx := by rw [List.append_nil, List.take_of_length_le ((Block.rx_length _).trans_le h)]
  err_of_fits _ := rfl
  err_of_overflow hover := absurd h (Nat.not_le.2 hover)
  same := SameExcept.refl _ _
  host := rfl

/-- A code recorded twice is recorded once (60_exceptions.md R190). -/
theorem errAfter_errAfter (e k : BitVec 4) : errAfter (errAfter e k) k = errAfter e k := by
  by_cases he : e = 0#4
  · simp [errAfter, he]
  · simp [errAfter, he]

theorem take_append_of_take {α : Type} (n : Nat) (xs ys : List α) :
    (xs.take n ++ ys).take n = (xs ++ ys).take n := by
  rw [List.take_append, List.take_append, List.take_take, Nat.min_self, List.length_take,
    show n - min n xs.length = n - xs.length by omega]

/-- Chunks compose: RX is cut at the capacity once or twice alike, and the first chunk that overflows sets ERR. -/
theorem Pushed.append {as bs : List Byte} {s t u : State} (h : Pushed as s t) (h' : Pushed bs t u) :
    Pushed (as ++ bs) s u where
  rx := by rw [h'.rx, h.rx, take_append_of_take, List.append_assoc]
  err_of_fits hfits := by
    rw [List.length_append] at hfits
    have hlen := h.rxlen
    rw [h'.err_of_fits (by omega), h.err_of_fits (by omega)]
  err_of_overflow hover := by
    rw [List.length_append] at hover
    have hlen := h.rxlen
    rcases Nat.lt_or_ge Config.rxCap (s.block.rxlen.toNat + as.length) with hfirst | hfirst
    · have ht := h.err_of_overflow hfirst
      rcases Nat.eq_zero_or_pos bs.length with hnone | hsome
      · rw [h'.err_of_fits (by omega), ht]
      · rw [h'.err_of_overflow (by omega), ht, errAfter_errAfter]
    · rw [h'.err_of_overflow (by omega), h.err_of_fits hfirst]
  same := h.same.trans h'.same
  host := h'.host.trans h.host

theorem Pushed.of_lt {s : State} (b : Byte) (h : s.block.rxlen.toNat < Config.rxCap) :
    Pushed [b] s (s.setBlock (effect (.rxpush b) s.block)) where
  rx := by
    have hfits : (s.block.rx ++ [b]).length ≤ Config.rxCap := by simpa using h
    rw [State.setBlock_block, effect_rxpush_rx b h, List.take_of_length_le hfits]
  err_of_fits _ := rfl
  err_of_overflow hover := absurd h (Nat.not_lt.2 (Nat.le_of_lt_succ hover))
  same := (sameExcept_effect_rxpush _ _).mono (by decide)
  host := rfl

theorem Pushed.of_full {s : State} (b : Byte) (h : s.block.rxlen.toNat = Config.rxCap) :
    Pushed [b] s (enterFault s .rxovf) where
  rx := by
    rw [List.take_left' ((Block.rx_length _).trans h), enterFault_block]
    exact Block.rx_congr rfl rfl
  err_of_fits hfits := absurd hfits (by simp [h])
  err_of_overflow _ := by rw [enterFault_block]; rfl
  same := (sameExcept_enterFault _ _).mono (by decide)
  host := enterFault_host _ _

theorem exec_rxpush_pushed {s : State} (b : Byte) (h : RxInRange s.block) :
    ∃ t, exec (.rxpush b) s = .next t ∧ Pushed [b] s t := by
  rcases Nat.lt_or_eq_of_le h with hroom | hfull
  · exact ⟨_, exec_rxpush_of_lt b hroom, .of_lt b hroom⟩
  · exact ⟨_, exec_rxpush_of_full b hfull, .of_full b hfull⟩

theorem issueAll_rxpush (bs : List Byte) {s : State} (h : RxInRange s.block) :
    ∃ t, issueAll s (bs.map fun b => encode (.rxpush b)) = .next t ∧ Pushed bs s t := by
  induction bs generalizing s with
  | nil => exact ⟨s, rfl, .nil h⟩
  | cons b bs ih =>
    obtain ⟨t, hexec, hb⟩ := exec_rxpush_pushed b h
    obtain ⟨u, hrun, hbs⟩ := ih hb.rxInRange
    refine ⟨u, ?_, hb.append hbs⟩
    rw [List.map_cons, issueAll_cons_of_next _ ((issue_encode s _).trans hexec), hrun]

/-- Words issued after a run that answers a next state go on from there. -/
theorem issueAll_append_of_next {s t : State} {ws : List Word} (vs : List Word) (h : issueAll s ws = .next t) :
    issueAll s (ws ++ vs) = issueAll t vs := by
  induction ws generalizing s with
  | nil =>
    obtain rfl : s = t := Host.Outcome.next.inj h
    rfl
  | cons w ws ih =>
    cases hw : issue s w with
    | next r =>
      rw [issueAll_cons_of_next _ hw] at h
      rw [List.cons_append, issueAll_cons_of_next _ hw, ih h]
    | fault f => simp [issueAll, hw] at h
    | refused r => simp [issueAll, hw] at h

/-- Settles O26: the two runs compose, as words and in what they do. -/
theorem chunksAppendInOrder : Obligations.ChunksAppendInOrder := by
  intro s as bs h
  obtain ⟨t, hrun, hpushed⟩ := issueAll_rxpush as h
  obtain ⟨u, hrun', hpushed'⟩ := issueAll_rxpush bs hpushed.rxInRange
  obtain ⟨hrx, hfits, hover, hsame, hhost⟩ := hpushed.append hpushed'
  rw [List.length_append, ← Nat.add_assoc] at hfits hover
  rw [← List.append_assoc] at hrx
  refine ⟨t, u, hrun, hrun', ?_, hrx, hfits, hover, hsame, hhost⟩
  rw [List.map_append, issueAll_append_of_next _ hrun, hrun']

end Sys2Proof.Machine

/-! PROOFS. The request encoder (42_frame_encode.md): the bytes of a request, the command ENCODE, and the checksum as a
one-to-one function of the register. -/

namespace Sys2Proof.Machine

/-! ### The bytes of a request (R130) -/

theorem requestBody_eq_crcHi_crcLo (slave : Byte) (reg : Half) :
    requestBody slave reg = [slave, 0x03#8, crcHi reg, crcLo reg, 0x00#8, 0x01#8] := rfl

theorem crcHi_eq_ofNat (c : Half) : crcHi c = BitVec.ofNat 8 (c.toNat / 256) := by
  rw [← toNat_crcHi, BitVec.ofNat_toNat, BitVec.setWidth_eq]

theorem crcLo_eq_ofNat (c : Half) : crcLo c = BitVec.ofNat 8 (c.toNat % 256) := by
  rw [← toNat_crcLo, BitVec.ofNat_toNat, BitVec.setWidth_eq]

/-- The body with the register's two bytes as digits of its number. -/
theorem requestBody_eq_digits (slave : Byte) (reg : Half) :
    requestBody slave reg =
      [slave, 0x03#8, BitVec.ofNat 8 (reg.toNat / 256), BitVec.ofNat 8 (reg.toNat % 256), 0x00#8, 0x01#8] := by
  rw [requestBody_eq_crcHi_crcLo, crcHi_eq_ofNat, crcLo_eq_ofNat]

theorem requestBody_inj {a b : Byte} {x y : Half} : requestBody a x = requestBody b y ↔ a = b ∧ x = y := by
  refine ⟨fun h => ?_, fun ⟨hslave, hreg⟩ => by rw [hslave, hreg]⟩
  simp only [requestBody_eq_crcHi_crcLo, List.cons.injEq] at h
  obtain ⟨hslave, -, hhi, hlo, -⟩ := h
  exact ⟨hslave, crc_ext hlo hhi⟩

/-- The checksum being as long in every request, equal requests have equal bodies. -/
theorem encodeReadRequest_inj {a b : Byte} {x y : Half} :
    encodeReadRequest a x = encodeReadRequest b y ↔ a = b ∧ x = y :=
  ⟨fun h => requestBody_inj.1 (List.append_inj_left h rfl), fun ⟨hslave, hreg⟩ => by rw [hslave, hreg]⟩

/-! ### ENCODE (R131) -/

theorem exec_encode (slave : Byte) (reg : Half) (s : State) :
    exec (.encode slave reg) s = .next (s.setBlock (effect (.encode slave reg) s.block)) := rfl

theorem effect_encode_tx (slave : Byte) (reg : Half) (b : Block) :
    (effect (.encode slave reg) b).tx = encodeReadRequest slave reg := Block.tx_setTx b 8#4 rfl

/-- A run of writes leaves the indices from its end on as they were. -/
theorem Memory.read_writeSeq_of_ge (sp : Space) (m : Memory) {a c : Nat} {bs : List Byte} (h : a + bs.length ≤ c) :
    Memory.read sp (Memory.writeSeq sp m a bs) c = Memory.read sp m c := by
  rw [Memory.read_writeSeq, if_neg fun hin => Nat.not_lt.2 h hin.2]

/-- A word of format E is its opcode's word plus the operands at their places. -/
theorem wordE_eq_add (op slave : Byte) (reg : Half) :
    wordE op slave reg = wordN op + slave.setWidth 32 * 65536#32 + reg.setWidth 32 := by
  apply BitVec.eq_of_toNat_eq
  simp only [toNat_wordE, BitVec.toNat_add, BitVec.toNat_mul, toNat_wordN, BitVec.toNat_setWidth, BitVec.toNat_ofNat]
  omega

/-- Settles O27: the word is ENCODE's, the effect writes TXBUF and TXLEN alone, and format E reserves no bit. -/
theorem encodeBuildsRequest : Obligations.EncodeBuildsRequest := by
  refine ⟨fun slave reg => decode_eq_ok_iff.2 (wordE_eq_add 0x08#8 slave reg), fun s slave reg => ?_,
    fun w hop => ⟨_, _, decode_eq_ok_iff.2 (encode_of_opField_eq_08 ((toNat_opField w).trans hop))⟩⟩
  have htx := effect_encode_tx slave reg s.block
  refine ⟨_, exec_encode slave reg s, ?_, htx, rfl, fun a ha => Memory.read_writeSeq_of_ge _ _ ha,
    sameExcept_setTx _ _ _, rfl⟩
  rw [← requestBody_eq_digits]
  refine ⟨crcLo (crc16 (requestBody slave reg)), crcHi (crc16 (requestBody slave reg)), ?_, rfl⟩
  rw [State.setBlock_block, htx, encodeReadRequest, requestBody_eq_digits]
  rfl

/-! ### Requests verify and differ (R133 (a) to (c)) -/

theorem encodeReadRequest_take_seven (slave : Byte) (reg : Half) :
    (encodeReadRequest slave reg).take 7 = requestBody slave reg ++ [crcLo (crc16 (requestBody slave reg))] := rfl

/-- A body with its low checksum byte alone leaves the high one as the residue. -/
theorem verify_concat_crcLo_iff {bs : List Byte} (h : bs ≠ []) :
    verify (bs ++ [crcLo (crc16 bs)]) = some true ↔ crcHi (crc16 bs) = 0x00#8 := by
  have hpos := List.length_pos_iff.2 h
  rw [verify_eq_residue (by rw [List.length_append, List.length_singleton]; omega), Option.some_inj, decide_eq_true_iff,
    (crcResidueIsZero bs).1]
  exact setWidth_byte_inj (d := 0x00#8)

/-- Settles O28: a request ends in its own checksum, its first seven bytes in the low byte of it. -/
theorem requestsVerifyAndDiffer : Obligations.RequestsVerifyAndDiffer := by
  refine ⟨fun slave reg => ⟨encodeReadRequest_length slave reg, verify_encodeReadRequest slave reg, ?_⟩,
    fun _ _ _ _ => encodeReadRequest_inj.1, by decide +kernel⟩
  rw [encodeReadRequest_take_seven]
  exact verify_concat_crcLo_iff (List.cons_ne_nil _ _)

/-! ### Requests that end in 0x00 (R133 (d)) -/

/-- The high byte of `crc_byte` tells the byte that entered. -/
theorem crcHi_crcByte_inj {c : Half} {x y : Byte} : crcHi (crcByte c x) = crcHi (crcByte c y) ↔ x = y := by
  refine ⟨fun h => ?_, fun h => by rw [h]⟩
  obtain ⟨-, -, crcHi_crcTab_inj⟩ := crcByteTableForm
  have htab : crcHi (crcTab (crcLo c ^^^ x)) = crcHi (crcTab (crcLo c ^^^ y)) := by simpa [crcByte_eq_table] using h
  exact (BitVec.xor_right_inj _).1 (crcHi_crcTab_inj _ _ htab)

/-- From one accumulator, two bytes lead to as many accumulators as there are pairs of bytes: the second byte leaves the
high byte of the accumulator before it, which tells the first. -/
theorem crcByte_crcByte_inj {c : Half} {x y x' y' : Byte} :
    crcByte (crcByte c x) y = crcByte (crcByte c x') y' ↔ x = x' ∧ y = y' := by
  refine ⟨fun h => ?_, fun ⟨hx, hy⟩ => by rw [hx, hy]⟩
  have hxor : crcByte c x ^^^ y.setWidth 16 = crcByte c x' ^^^ y'.setWidth 16 := crcRounds_inj.1 h
  obtain rfl : x = x' := crcHi_crcByte_inj.1 (by simpa using congrArg crcHi hxor)
  exact ⟨rfl, crcByte_inj_byte.1 h⟩

theorem crc16_requestBody (slave : Byte) (reg : Half) :
    crc16 (requestBody slave reg) =
      crcFrom (crcByte (crcByte (crc16 [slave, Config.func]) (crcHi reg)) (crcLo reg)) (bigEndian Config.qty) := rfl

/-- At one slave, different registers have different checksums. -/
theorem crc16_requestBody_inj {slave : Byte} {x y : Half} :
    crc16 (requestBody slave x) = crc16 (requestBody slave y) ↔ x = y := by
  refine ⟨fun h => ?_, fun h => by rw [h]⟩
  rw [crc16_requestBody, crc16_requestBody, crcFrom_inj, crcByte_crcByte_inj] at h
  obtain ⟨hhi, hlo⟩ := h
  exact crc_ext hlo hhi

/-- The checksum of the request for the register of number `r`, as a number. -/
def requestCrc (slave : Byte) (r : Nat) : Nat := (crc16 (requestBody slave (BitVec.ofNat 16 r))).toNat

theorem requestCrc_lt (slave : Byte) (r : Nat) : requestCrc slave r < 65536 := BitVec.isLt _

theorem requestCrc_inj {slave : Byte} {r q : Nat} (hr : r < 65536) (hq : q < 65536)
    (h : requestCrc slave r = requestCrc slave q) : r = q := by
  have hreg := congrArg BitVec.toNat (crc16_requestBody_inj.1 (BitVec.eq_of_toNat_eq h))
  simpa [Nat.mod_eq_of_lt hr, Nat.mod_eq_of_lt hq] using hreg

theorem crcHi_eq_zero_iff (c : Half) : crcHi c = 0x00#8 ↔ c.toNat < 256 := by
  rw [← BitVec.toNat_inj, toNat_crcHi, BitVec.toNat_ofNat]
  omega

/-- The last byte of a request is 0x00 when its checksum is below 256. -/
theorem requestCrc_lt_iff (slave : Byte) (r : Nat) :
    requestCrc slave r < 256 ↔ crcHi (crc16 (requestBody slave (BitVec.ofNat 16 r))) = 0x00#8 :=
  (crcHi_eq_zero_iff _).symm

/-- A one-to-one map of the numbers below `n` into themselves takes each of them once. -/
theorem map_range_perm {n : Nat} {f : Nat → Nat} (hlt : ∀ i < n, f i < n)
    (hinj : ∀ i < n, ∀ j < n, f i = f j → i = j) : ((List.range n).map f).Perm (List.range n) := by
  have hnodup : ((List.range n).map f).Nodup :=
    List.nodup_range.map_on fun i hi j hj => hinj i (List.mem_range.1 hi) j (List.mem_range.1 hj)
  have hsub : (List.range n).map f ⊆ List.range n := by simpa [List.subset_def] using hlt
  exact (List.subperm_of_subset hnodup hsub).perm_of_length_le (by simp)

/-- Of the values of a one-to-one map of the numbers below `n` into themselves, `k` are below `k`. -/
theorem countP_lt_of_one_to_one {k n : Nat} {f : Nat → Nat} (hk : k ≤ n) (hlt : ∀ i < n, f i < n)
    (hinj : ∀ i < n, ∀ j < n, f i = f j → i = j) : (List.range n).countP (f · < k) = k := by
  calc (List.range n).countP (f · < k)
      = ((List.range n).map f).countP (· < k) := by rw [List.countP_map]; rfl
    _ = (List.range n).countP (· < k) := (map_range_perm hlt hinj).countP_eq _
    _ = ((List.Ico 0 n).filter (· < k)).length := by rw [List.countP_eq_length_filter, List.Ico.zero_bot]
    _ = k := by rw [List.Ico.filter_lt_of_ge hk, List.Ico.length, Nat.sub_zero]

/-- Settles O29: at one slave the checksums of the 65536 requests are the 65536 numbers, each once, and 256 of them
have a high byte 0x00. -/
theorem requestsEndingInZeroAre256 : Obligations.RequestsEndingInZeroAre256 := by
  intro slave
  calc ((List.range 65536).filter fun r => crcHi (crc16 (requestBody slave (BitVec.ofNat 16 r))) = 0x00#8).length
      = (List.range 65536).countP (requestCrc slave · < 256) := by
        rw [← List.countP_eq_length_filter]
        exact List.countP_congr fun r _ => by rw [decide_eq_true_iff, decide_eq_true_iff, requestCrc_lt_iff]
    _ = 256 :=
        countP_lt_of_one_to_one (by omega) (fun r _ => requestCrc_lt slave r) fun _ hr _ hq => requestCrc_inj hr hq

end Sys2Proof.Machine

/-! PROOFS. Validation and extraction (43_frame_extract.md): the windows in their order, the first that verifies, what
EXTRACT makes of it, and what that says of trailing 0x00 bytes, of requests and of responses. -/

namespace Sys2Proof.Machine

/-! ### VALIDATE (R140, R141) -/

theorem validateFrame_iff (bs : List Byte) : validateFrame bs = true ↔ 7 ≤ bs.length ∧ verify bs = some true := by
  rw [validateFrame, Bool.and_eq_true, decide_eq_true_iff, passes_iff, Config.minFrame]

theorem validateFrame_of_lt {bs : List Byte} (h : bs.length < 7) : validateFrame bs = false :=
  Bool.eq_false_iff.2 fun hv => Nat.not_le.2 h ((validateFrame_iff bs).1 hv).1

/-- Settles O30: the floor and `verify` are the two conjuncts of `validate_frame`. -/
theorem validateFrameHasFloor : Obligations.ValidateFrameHasFloor :=
  fun bs => ⟨validateFrame_iff bs, validateFrame_of_lt⟩

theorem validateFrame_of_le {bs : List Byte} (h : 7 ≤ bs.length) :
    validateFrame bs = checksumMatches bs (bodyCrc bs) := by
  rw [Bool.eq_iff_iff, validateFrame_iff, verify_of_le (by omega), Option.some_inj]
  exact and_iff_right h

theorem exec_validate {s : State} (h : RxInRange s.block) :
    exec .validate s = .next (s.setBlock (effect .validate s.block)) := exec_of_inRange .validate h

theorem effect_validate_of_lt {b : Block} (h : b.rxlen.toNat < 7) : effect .validate b = b.setV false := if_pos h

/-- From 7 bytes on VALIDATE does what VERIFY does. -/
theorem effect_validate_of_le {b : Block} (h : 7 ≤ b.rxlen.toNat) : effect .validate b = effect .verify b :=
  if_neg (Nat.not_lt.2 h)

/-- Settles O31: below 7 bytes V alone is written; from 7 bytes on V and CRC are those of VERIFY. -/
theorem validateSetsV : Obligations.ValidateSetsV := by
  refine ⟨decode_eq_ok_iff.2 rfl, fun s hrx => ⟨_, exec_validate hrx, ?_⟩, formatNFaults (by decide)⟩
  rw [State.setBlock_block, State.setBlock_host]
  rcases Nat.lt_or_ge s.block.rxlen.toNat 7 with hlt | hge
  · rw [effect_validate_of_lt hlt]
    exact ⟨(validateFrame_of_lt (by rwa [Block.rx_length])).symm, fun _ => ⟨rfl, rfl⟩,
      fun hge => absurd hge (Nat.not_le.2 hlt), (sameExcept_setV _ _).mono (by simp), rfl⟩
  · rw [effect_validate_of_le hge, ← Block.rx_length]
    rw [← Block.rx_length] at hge
    exact ⟨(validateFrame_of_le hge).symm, fun hlt => absurd hge (Nat.not_le.2 hlt), fun _ => rfl,
      (sameExcept_setCrc_setV _ _ _).mono (by simp), rfl⟩

/-! ### The windows in their order (R142) -/

/-- The windows of one start, by their ends. -/
def windowRow (len s : Nat) : List (Nat × Nat) :=
  (List.range (len + 1 - Config.minFrame - s)).map fun k => (s, s + Config.minFrame + k)

theorem windows_eq_flatMap_windowRow (len : Nat) : windows len = (List.range (len - 6)).flatMap (windowRow len) := by
  rw [← Nat.add_sub_add_right len 1 6]
  rfl

theorem windowRow_length (len s : Nat) : (windowRow len s).length = len - 6 - s := by
  rw [windowRow, List.length_map, List.length_range, Config.minFrame]
  omega

theorem fst_of_mem_windowRow {len s : Nat} {x : Nat × Nat} (h : x ∈ windowRow len s) : x.1 = s := by
  obtain ⟨k, -, rfl⟩ := List.mem_map.1 h
  rfl

/-- The windows are listed by start, those of one start by end. -/
theorem windows_pairwise_before (len : Nat) : (windows len).Pairwise Before := by
  rw [windows_eq_flatMap_windowRow, List.pairwise_flatMap]
  constructor
  · intro s _
    exact List.pairwise_map.2 (List.pairwise_lt_range.imp fun hlt => .inr ⟨rfl, Nat.add_lt_add_left hlt _⟩)
  · refine List.pairwise_lt_range.imp fun hlt x hx y hy => .inl ?_
    rwa [fst_of_mem_windowRow hx, fst_of_mem_windowRow hy]

theorem windows_of_lt {len : Nat} (h : len < 7) : windows len = [] := by
  rw [windows_eq_flatMap_windowRow, Nat.sub_eq_zero_of_le (Nat.le_of_lt_succ h)]
  rfl

theorem windows_length_of_le {len : Nat} (h : 7 ≤ len) : (windows len).length = (len - 6) * (len - 5) / 2 := by
  rw [windows_length, show len + 1 - Config.minFrame = len - 6 from Nat.add_sub_add_right len 1 6,
    show len - 6 + 1 = len - 5 by omega]

/-- Settles O32: the list runs over the starts and, for each, over the ends. -/
theorem windowsInScanOrder : Obligations.WindowsInScanOrder :=
  fun len => ⟨mem_windows_iff len, windows_pairwise_before len, windows_of_lt, windows_length_of_le⟩

/-! ### The nested loops (P143) -/

/-- The ends of one start as block P143 counts them. -/
theorem windowRow_eq_map_range' (len s : Nat) :
    windowRow len s =
      (List.range' (s + Config.minFrame) (len + 1 - (s + Config.minFrame))).map fun e => (s, e) := by
  rw [List.range'_eq_map_range, List.map_map, Nat.add_comm s, ← Nat.sub_sub, Nat.add_comm _ s]
  rfl

/-- The inner loop is the scan of the windows of one start, on top of the running count. -/
theorem endLoop_eq_scan (bs : List Byte) (s : Nat) (es : List Nat) (bad : Nat) :
    endLoop bs s es bad =
      ((scan bs (es.map fun e => (s, e))).1, (scan bs (es.map fun e => (s, e))).2 + bad) := by
  induction es generalizing bad with
  | nil => rw [List.map_nil, scan_nil, endLoop, Nat.zero_add]
  | cons e es ih =>
    rw [List.map_cons, endLoop]
    cases hp : passes (slice bs s e) with
    | true => rw [scan_cons_pass _ hp, if_pos rfl, Nat.zero_add]
    | false => rw [scan_cons_fail _ hp, if_neg Bool.false_ne_true, ih, Nat.add_right_comm, Nat.add_assoc]

/-- The outer loop is the scan of the windows of its starts. -/
theorem startLoop_eq_scan (bs : List Byte) (ss : List Nat) (bad : Nat) :
    startLoop bs ss bad =
      ((scan bs (ss.flatMap (windowRow bs.length))).1, (scan bs (ss.flatMap (windowRow bs.length))).2 + bad) := by
  induction ss generalizing bad with
  | nil => rw [List.flatMap_nil, scan_nil, startLoop, Nat.zero_add]
  | cons s ss ih =>
    rw [List.flatMap_cons, startLoop, endLoop_eq_scan, ← windowRow_eq_map_range']
    rcases scan_cases bs (windowRow bs.length s) with ⟨pre, w, post, hrow, hpre, hw, hscan⟩ | ⟨hall, hscan⟩
    · rw [hscan, hrow, List.append_assoc, List.cons_append, scan_of_first pre _ hpre hw]
    · rw [hscan, scan_append_fail _ _ hall]
      simp only [ih, Nat.add_assoc]

/-- Settles O34: the starts of the loops are those of the ordered list, which is empty below 7 bytes. -/
theorem nestedLoopsEqualScan : Obligations.NestedLoopsEqualScan := by
  intro bs
  rw [loopP143, Config.minFrame]
  split
  · next hlt => rw [windows_of_lt hlt, scan_nil]
  · rw [startLoop_eq_scan, windows_eq_flatMap_windowRow, Nat.add_zero]

/-! ### The first window that verifies (R143) -/

/-- A window that verifies, with none before it that does. -/
structure IsFirstFrame (bs : List Byte) (w : Nat × Nat) : Prop where
  window : IsWindow bs.length w
  verifies : verify (slice bs w.1 w.2) = some true
  noEarlier : NoEarlierFrame bs w

theorem not_before_self (w : Nat × Nat) : ¬ Before w w := by
  unfold Before
  omega

theorem not_before_of_before {v w : Nat × Nat} (h : Before v w) : ¬ Before w v := by
  unfold Before at *
  omega

/-- In a list in scan order the windows before one of its windows are those listed before it. -/
theorem filter_before_eq {pre post : List (Nat × Nat)} {w : Nat × Nat} (h : (pre ++ w :: post).Pairwise Before) :
    ((pre ++ w :: post).filter fun y => Before y w) = pre := by
  obtain ⟨-, htail, hpre⟩ := List.pairwise_append.1 h
  have hpost := (List.pairwise_cons.1 htail).1
  rw [List.filter_append, List.filter_eq_self.2, List.filter_eq_nil_iff.2, List.append_nil]
  · intro y hy
    rw [decide_eq_true_iff]
    rcases List.mem_cons.1 hy with rfl | hy
    · exact not_before_self y
    · exact not_before_of_before (hpost y hy)
  · exact fun y hy => decide_eq_true (hpre y hy w List.mem_cons_self)

theorem verify_ne_of_passes_eq_false {bs : List Byte} (h : passes bs = false) : verify bs ≠ some true :=
  fun hv => Bool.false_ne_true (h.symm.trans (passes_iff.2 hv))

/-- What `extract_frame` can return: the first window that verifies and the number of windows before it, or nothing and
the number of all windows. -/
theorem extractFrame_cases (bs : List Byte) :
    (∃ w, IsFirstFrame bs w ∧
      extractFrame bs = (some (cutAt bs w), ((windows bs.length).filter fun y => Before y w).length)) ∨
    ((∀ w, IsWindow bs.length w → verify (slice bs w.1 w.2) ≠ some true) ∧
      extractFrame bs = (none, (windows bs.length).length)) := by
  have hsorted := windows_pairwise_before bs.length
  have hmem := mem_windows_iff bs.length
  rw [extractFrame]
  rcases scan_cases bs (windows bs.length) with ⟨pre, w, post, hws, hpre, hw, hscan⟩ | ⟨hall, hscan⟩
  · rw [hws] at hsorted hmem
    have hfilter := filter_before_eq hsorted
    refine .inl ⟨w, ⟨(hmem w).1 (by simp), passes_iff.1 hw, fun x hx hbefore => ?_⟩, ?_⟩
    · have hx : x ∈ pre := by
        rw [← hfilter]
        exact List.mem_filter.2 ⟨(hmem x).2 hx, decide_eq_true hbefore⟩
      exact verify_ne_of_passes_eq_false (hpre x hx)
    · rw [hscan, hws, hfilter]
      rfl
  · refine .inr ⟨fun w hw => verify_ne_of_passes_eq_false (hall w ((hmem w).2 hw)), ?_⟩
    rw [hscan]
    rfl

/-- The order is total, so there is one first window that verifies. -/
theorem IsFirstFrame.unique {bs : List Byte} {v w : Nat × Nat} (hv : IsFirstFrame bs v) (hw : IsFirstFrame bs w) :
    v = w := by
  have h1 : ¬ Before v w := fun h => hw.noEarlier v hv.window h hv.verifies
  have h2 : ¬ Before w v := fun h => hv.noEarlier w hw.window h hw.verifies
  unfold Before at h1 h2
  exact Prod.ext (by omega) (by omega)

theorem extractFrame_of_first {bs : List Byte} {w : Nat × Nat} (h : IsFirstFrame bs w) :
    extractFrame bs = (some (cutAt bs w), ((windows bs.length).filter fun y => Before y w).length) := by
  rcases extractFrame_cases bs with ⟨v, hv, heq⟩ | ⟨hnone, -⟩
  · rw [heq, hv.unique h]
  · exact absurd h.verifies (hnone w h.window)

theorem isFirstFrame_of_extractFrame {bs : List Byte} {x : Extraction} (h : (extractFrame bs).1 = some x) :
    ∃ w, IsFirstFrame bs w ∧ x = cutAt bs w := by
  rcases extractFrame_cases bs with ⟨w, hw, heq⟩ | ⟨-, heq⟩
  · rw [heq] at h
    exact ⟨w, hw, (Option.some.inj h).symm⟩
  · rw [heq] at h
    cases h

theorem extractFrame_of_none {bs : List Byte} (h : (extractFrame bs).1 = none) :
    (∀ w, IsWindow bs.length w → verify (slice bs w.1 w.2) ≠ some true) ∧
      (extractFrame bs).2 = (windows bs.length).length := by
  rcases extractFrame_cases bs with ⟨w, hw, heq⟩ | ⟨hnone, heq⟩
  · rw [heq] at h
    cases h
  · exact ⟨hnone, by rw [heq]⟩

/-- Where some window verifies, the one returned does not come after it. -/
theorem exists_first_of_verify {bs : List Byte} {v : Nat × Nat} (hv : IsWindow bs.length v)
    (hver : verify (slice bs v.1 v.2) = some true) : ∃ w, IsFirstFrame bs w ∧ ¬ Before v w := by
  rcases extractFrame_cases bs with ⟨w, hw, -⟩ | ⟨hnone, -⟩
  · exact ⟨w, hw, fun hbefore => hw.noEarlier v hv hbefore hver⟩
  · exact absurd hver (hnone v hv)

theorem extractFrame_of_lt {bs : List Byte} (h : bs.length < 7) : extractFrame bs = (none, 0) := by
  rw [extractFrame, windows_of_lt h]
  rfl

/-- Settles O33: the first window that verifies, cut out of the buffer. -/
theorem extractFrameTakesFirstWindow : Obligations.ExtractFrameTakesFirstWindow := by
  refine fun bs => ⟨fun x hx => ?_, extractFrame_of_none, extractFrame_of_lt⟩
  obtain ⟨w, hw, rfl⟩ := isFirstFrame_of_extractFrame hx
  have hle : w.1 ≤ w.2 := (Nat.le_add_right _ _).trans hw.window.1
  rw [extractFrame_of_first hw]
  exact ⟨hw.window, hw.verifies, hw.noEarlier, rfl, (take_slice_drop hle).symm, rfl⟩

/-! ### How many windows come before one (R145) -/

/-- The windows of the first `s` starts: `n` of the first, one fewer of each after it. -/
theorem two_mul_sum_range_sub {s n : Nat} (h : s ≤ n) :
    2 * ((List.range s).map fun i => n - i).sum + s * s = 2 * (s * n) + s := by
  induction s with
  | zero => simp
  | succ s ih =>
    obtain ⟨d, rfl⟩ := Nat.exists_eq_add_of_le h
    have hsub : s + 1 + d - s = d + 1 := by omega
    rw [List.range_succ, List.map_append, List.sum_append, List.map_singleton, List.sum_singleton, hsub]
    linarith [ih (by omega)]

theorem exists_range_eq_append {i n : Nat} (h : i < n) : ∃ rest, List.range n = List.range i ++ i :: rest := by
  obtain ⟨d, rfl⟩ := Nat.exists_eq_add_of_lt h
  refine ⟨(List.range d).map fun j => i + (j + 1), ?_⟩
  rw [Nat.add_assoc, List.range_add, List.range_succ_eq_map, List.map_cons, List.map_map, Nat.add_zero]
  rfl

theorem exists_windowRow_eq_append {len s k : Nat} (h : s + 7 + k ≤ len) :
    ∃ row post, row.length = k ∧ windowRow len s = row ++ (s, s + 7 + k) :: post := by
  have hk : k < len + 1 - Config.minFrame - s := by
    rw [Config.minFrame]
    omega
  obtain ⟨ends, hends⟩ := exists_range_eq_append hk
  rw [windowRow, hends, List.map_append, List.map_cons]
  exact ⟨_, _, by rw [List.length_map, List.length_range], rfl⟩

/-- The windows up to one: the rows of the starts before its own, and its own row up to its end. -/
theorem exists_windows_eq_append {len : Nat} {w : Nat × Nat} (h : IsWindow len w) :
    ∃ row post, row.length = w.2 - w.1 - 7 ∧
      windows len = ((List.range w.1).flatMap (windowRow len) ++ row) ++ w :: post := by
  obtain ⟨s, e⟩ := w
  obtain ⟨hmin : s + 7 ≤ e, hmax : e ≤ len⟩ := h
  obtain ⟨k, rfl⟩ := Nat.exists_eq_add_of_le hmin
  obtain ⟨row, post, hlen, hrow⟩ := exists_windowRow_eq_append hmax
  obtain ⟨starts, hstarts⟩ := exists_range_eq_append (show s < len - 6 by omega)
  refine ⟨row, post ++ starts.flatMap (windowRow len), by omega, ?_⟩
  rw [windows_eq_flatMap_windowRow, hstarts, List.flatMap_append, List.flatMap_cons, hrow]
  simp only [List.append_assoc, List.cons_append]

/-- The number of windows before one, in numbers. -/
theorem length_filter_before {len : Nat} {w : Nat × Nat} (h : IsWindow len w) :
    ((windows len).filter fun y => Before y w).length =
      w.1 * (len - 6) - w.1 * (w.1 - 1) / 2 + (w.2 - w.1 - 7) := by
  obtain ⟨row, post, hrow, hws⟩ := exists_windows_eq_append h
  obtain ⟨hmin : w.1 + 7 ≤ w.2, hmax : w.2 ≤ len⟩ := h
  have hsum := two_mul_sum_range_sub (show w.1 ≤ len - 6 by omega)
  have hsq := Nat.le_mul_self w.1
  have hsorted := windows_pairwise_before len
  rw [hws] at hsorted ⊢
  rw [filter_before_eq hsorted, List.length_append, List.length_flatMap, hrow, Nat.mul_sub_one]
  simp only [windowRow_length]
  omega

/-! ### EXTRACT (R144, R145, R148) -/

theorem exec_extract {s : State} (h : RxInRange s.block) :
    exec .extract s = .next (s.setBlock (effect .extract s.block)) := exec_of_inRange .extract h

/-- When EXTRACT answers a next state, the block has its effect: it takes no fault. -/
theorem block_of_exec_extract {s t : State} (h : exec .extract s = .next t) : t.block = effect .extract s.block := by
  rcases exec_next_cases h with ⟨f, hf, -⟩ | ⟨-, rfl⟩
  · cases hf
  · rfl

theorem Block.getElem?_rx {b : Block} {i : Nat} (h : i < b.rxlen.toNat) : b.rx[i]? = some (b.rxByte i) := by
  simp [Block.rx, h]

theorem RxInRange.rx_length_le {b : Block} (h : RxInRange b) : b.rx.length ≤ Config.rxCap :=
  (Block.rx_length b).trans_le h

/-- BADCNT holds the count as it is: it does not wrap (10_state.md R27). -/
theorem effect_extract_badcnt {b : Block} (h : RxInRange b) :
    (effect .extract b).badcnt.toNat = (extractFrame b.rx).2 := by
  have hle := extractFrame_count_le h.rx_length_le
  have hlt := badcntBound_lt
  rw [effect, afterScan_badcnt, BitVec.toNat_ofNat]
  exact Nat.mod_eq_of_lt (by omega)

theorem effect_extract_of_none {b : Block} (h : (extractFrame b.rx).1 = none) :
    effect .extract b =
      (b.setFrame false (Memory.holding .f []) (lenOf 0) (lenOf 0)).setBadcnt
        (BitVec.ofNat 32 (extractFrame b.rx).2) := afterScan_of_none b h

section Found
variable {b : Block} {w : Nat × Nat} (hw : IsFirstFrame b.rx w)
include hw

theorem effect_extract_of_first :
    effect .extract b =
      ((b.setFrame true (Memory.holding .f (slice b.rx w.1 w.2)) (lenOf (slice b.rx w.1 w.2).length) (lenOf w.1)).setRx
        (Memory.holding .rx (b.rx.drop w.2)) (lenOf (b.rx.drop w.2).length)).setBadcnt
          (BitVec.ofNat 32 (extractFrame b.rx).2) :=
  afterScan_of_some b (congrArg Prod.fst (extractFrame_of_first hw))

theorem effect_extract_found : (effect .extract b).found = true := by
  rw [effect_extract_of_first hw]
  rfl

theorem read_effect_extract_fbuf {a : Nat} (ha : a < w.2 - w.1) :
    Memory.read .f (effect .extract b).fbuf a = some (b.rxByte (w.1 + a)) := by
  have hstop : w.2 ≤ b.rx.length := hw.window.2
  rw [effect_extract_of_first hw]
  change Memory.read .f (Memory.holding .f (slice b.rx w.1 w.2)) a = _
  rw [Memory.read_holding, slice_length hstop, if_pos ha, slice_getElem?, if_pos ha]
  exact Block.getElem?_rx (by rw [← Block.rx_length]; omega)

theorem read_effect_extract_rxbuf {a : Nat} (ha : a < b.rxlen.toNat - w.2) :
    Memory.read .rx (effect .extract b).rxbuf a = some (b.rxByte (w.2 + a)) := by
  rw [effect_extract_of_first hw]
  change Memory.read .rx (Memory.holding .rx (b.rx.drop w.2)) a = _
  rw [Memory.read_holding, List.length_drop, Block.rx_length, if_pos ha, List.getElem?_drop]
  exact Block.getElem?_rx (by omega)

variable (hrx : RxInRange b)
include hrx

theorem effect_extract_flen : (effect .extract b).flen.toNat = w.2 - w.1 := by
  have hstop : w.2 ≤ b.rx.length := hw.window.2
  have hcap := hrx.rx_length_le
  rw [effect_extract_of_first hw, slice_length hstop]
  exact toNat_lenOf (by omega)

theorem effect_extract_fstart : (effect .extract b).fstart.toNat = w.1 := by
  obtain ⟨hmin, hmax⟩ := hw.window
  have hcap := hrx.rx_length_le
  rw [effect_extract_of_first hw]
  exact toNat_lenOf (by omega)

theorem effect_extract_rxlen : (effect .extract b).rxlen.toNat = b.rxlen.toNat - w.2 := by
  have hcap : b.rxlen.toNat ≤ Config.rxCap := hrx
  rw [effect_extract_of_first hw, List.length_drop, Block.rx_length]
  exact toNat_lenOf (by omega)

theorem effect_extract_frame : (effect .extract b).frame = slice b.rx w.1 w.2 := by
  have hcap := hrx.rx_length_le
  have hstop : w.2 ≤ b.rx.length := hw.window.2
  rw [effect_extract_of_first hw]
  exact Block.frame_of_holding rfl rfl (by rw [slice_length hstop]; omega)

theorem effect_extract_rx : (effect .extract b).rx = b.rx.drop w.2 := by
  have hcap := hrx.rx_length_le
  rw [effect_extract_of_first hw]
  exact Block.rx_of_holding rfl rfl (by rw [List.length_drop]; omega)

end Found

/-- Settles O36: on a frame both buffers are filled from the bytes read before the command; on none RX is not written. -/
theorem extractMovesFrameAndSuffix : Obligations.ExtractMovesFrameAndSuffix := by
  refine ⟨decode_eq_ok_iff.2 rfl, fun s hrx => ?_, formatNFaults (by decide)⟩
  refine ⟨_, exec_extract hrx, effect_extract_badcnt hrx, fun x hx => ?_, fun hx => ?_, ?_, rfl⟩
  · obtain ⟨w, hw, rfl⟩ := isFirstFrame_of_extractFrame hx
    exact ⟨effect_extract_found hw, effect_extract_flen hw hrx, effect_extract_fstart hw hrx,
      effect_extract_rxlen hw hrx, fun _ => read_effect_extract_fbuf hw, fun _ => read_effect_extract_rxbuf hw,
      effect_extract_frame hw hrx, effect_extract_rx hw hrx⟩
  · rw [State.setBlock_block, effect_extract_of_none hx]
    exact ⟨rfl, rfl, rfl, (sameExcept_setFrame _ _ _ _ _).append (sameExcept_setBadcnt _ _)⟩
  · exact (sameExcept_afterScan _ _).mono (by decide)

/-- Settles O37: the count is that of all windows, or of those before the one returned. -/
theorem badcntCountsFailedWindows : Obligations.BadcntCountsFailedWindows := by
  intro s t hrx hexec
  rw [block_of_exec_extract hexec, effect_extract_badcnt hrx, ← Block.rx_length]
  refine ⟨fun hlt => by rw [extractFrame_of_lt hlt], fun hge => ?_⟩
  rcases extractFrame_cases s.block.rx with ⟨w, hw, heq⟩ | ⟨-, heq⟩
  · refine ⟨fun hfound => ?_, fun _ => ?_⟩
    · rw [effect_extract_found hw] at hfound
      cases hfound
    · rw [heq, effect_extract_fstart hw hrx, effect_extract_flen hw hrx]
      exact length_filter_before hw.window
  · refine ⟨fun _ => ?_, fun hfound => ?_⟩
    · rw [heq, windows_length_of_le hge, show s.block.rx.length - 5 = s.block.rx.length - 6 + 1 by omega]
    · rw [effect_extract_of_none (by rw [heq])] at hfound
      cases hfound

/-- Settles O38: what EXTRACT writes is made of RX, and what it leaves is RX itself. -/
theorem extractDependsOnReceiveBufferAlone : Obligations.ExtractDependsOnReceiveBufferAlone := by
  intro s u t v _ hrx ht hv
  rw [block_of_exec_extract ht, block_of_exec_extract hv]
  cases hx : (extractFrame s.block.rx).1 with
  | none =>
    have hlen : u.block.rxlen = s.block.rxlen :=
      BitVec.eq_of_toNat_eq (by rw [← Block.rx_length, ← Block.rx_length, hrx])
    rw [effect_extract_of_none hx, effect_extract_of_none (hrx ▸ hx), hrx]
    exact ⟨rfl, Block.frame_congr rfl rfl, rfl, rfl, hrx, hlen, rfl⟩
  | some x =>
    obtain ⟨w, hw, -⟩ := isFirstFrame_of_extractFrame hx
    rw [effect_extract_of_first hw, effect_extract_of_first (hrx ▸ hw), hrx]
    exact ⟨rfl, Block.frame_congr rfl rfl, rfl, rfl, Block.rx_congr rfl rfl, rfl, rfl⟩

/-! ### Trailing 0x00 bytes (R149) -/

theorem slice_append_left (bs cs : List Byte) : slice (bs ++ cs) 0 bs.length = bs := by
  rw [slice_zero, List.take_left]

theorem verify_concat_zero {bs : List Byte} (h : 2 ≤ bs.length) : verify (bs ++ [0x00#8]) = verify bs :=
  verifyZeroExtension bs 1 h

/-- A window whose bytes end in 0x00 and verify is the first only when it is as short as a frame can be: without the
0x00 it is an earlier window that verifies as well. -/
theorem IsFirstFrame.getLast?_ne_zero {bs : List Byte} {w : Nat × Nat} (hw : IsFirstFrame bs w)
    (h8 : 8 ≤ (slice bs w.1 w.2).length) : (slice bs w.1 w.2).getLast? ≠ some 0x00#8 := by
  obtain ⟨s, e⟩ := w
  have hstop : e ≤ bs.length := hw.window.2
  have hver : verify (slice bs s e) = some true := hw.verifies
  rw [slice_length hstop] at h8
  obtain ⟨e, rfl⟩ := Nat.exists_eq_add_one_of_ne_zero (show e ≠ 0 by omega)
  rw [slice_succ (by omega) hstop] at hver ⊢
  rw [List.getLast?_concat]
  intro hzero
  rw [Option.some.inj hzero, verify_concat_zero (by rw [slice_length (by omega)]; omega)] at hver
  exact hw.noEarlier (s, e) ⟨show s + 7 ≤ e by omega, show e ≤ bs.length by omega⟩ (.inr ⟨rfl, e.lt_succ_self⟩) hver

/-- Settles O39: of two windows that differ in a trailing 0x00 both verify, and the shorter comes first. -/
theorem trailingZeroIsLeftBehind : Obligations.TrailingZeroIsLeftBehind := by
  refine ⟨fun bs x hx h8 => ?_, fun bs h7 hver => ?_⟩
  · obtain ⟨w, hw, rfl⟩ := isFirstFrame_of_extractFrame hx
    exact hw.getLast?_ne_zero h8
  · rw [verify_concat_zero (by omega)] at hver
    obtain ⟨w, hw, hle⟩ := exists_first_of_verify (bs := bs ++ [0x00#8]) (v := (0, bs.length))
      ⟨(Nat.zero_add 7).trans_le h7, by simp⟩ (by rwa [slice_append_left])
    refine ⟨_, by rw [extractFrame_of_first hw], ?_⟩
    unfold Before at hle
    exact ⟨show w.1 = 0 by omega, show w.2 ≤ bs.length by omega⟩

/-! ### Requests (R150) -/

/-- A buffer that starts with seven bytes that verify returns them. -/
theorem isFirstFrame_zero_seven {bs : List Byte} (h7 : 7 ≤ bs.length) (hver : verify (bs.take 7) = some true) :
    IsFirstFrame bs (0, 7) where
  window := ⟨Nat.le_refl 7, h7⟩
  verifies := by rwa [slice_zero]
  noEarlier x hx hbefore := by
    obtain ⟨hmin : x.1 + 7 ≤ x.2, -⟩ := hx
    unfold Before at hbefore
    omega

theorem extractFrame_of_take_seven {bs : List Byte} (h7 : 7 ≤ bs.length) (hver : verify (bs.take 7) = some true) :
    extractFrame bs = (some ⟨0, 7, bs.take 7, bs.drop 7⟩, 0) := by
  have hw := isFirstFrame_zero_seven h7 hver
  rw [extractFrame_of_first hw, length_filter_before hw.window, cutAt, slice_zero]
  simp

/-- Of eight bytes that verify, the first seven of which do not, all are returned. -/
theorem extractFrame_of_length_eight {bs : List Byte} (h8 : bs.length = 8) (hver : verify bs = some true)
    (h7 : verify (bs.take 7) ≠ some true) : extractFrame bs = (some ⟨0, 8, bs, []⟩, 1) := by
  have htake : bs.take 8 = bs := List.take_of_length_le h8.le
  have hdrop : bs.drop 8 = [] := List.drop_of_length_le h8.le
  have hw : IsFirstFrame bs (0, 8) := by
    refine ⟨⟨Nat.le_succ 7, h8.ge⟩, by rwa [slice_zero, htake], fun x hx hbefore => ?_⟩
    obtain ⟨hmin : x.1 + 7 ≤ x.2, -⟩ := hx
    obtain rfl : x = (0, 7) := by
      unfold Before at hbefore
      exact Prod.ext (by omega) (by omega)
    rwa [slice_zero]
  rw [extractFrame_of_first hw, length_filter_before hw.window, cutAt, slice_zero, htake, hdrop]
  simp

/-- Settles O40: a request verifies at its own window wherever it stands; alone, its first seven bytes are the only
earlier window. -/
theorem requestRoundTripRestricted : Obligations.RequestRoundTripRestricted := by
  refine ⟨fun slave reg pre post => ⟨fun h => ?_, fun h => ?_⟩, fun slave reg hhi => ?_, fun slave reg hhi => ?_⟩
  · obtain ⟨w, hw, hcut⟩ := isFirstFrame_of_extractFrame h
    obtain rfl : (pre.length, pre.length + 8) = w :=
      Prod.ext (congrArg Extraction.start hcut) (congrArg Extraction.stop hcut)
    exact hw.noEarlier
  · have hslice := slice_middle pre (encodeReadRequest slave reg) post
    rw [encodeReadRequest_length, Config.reqLen] at hslice
    have hw : IsFirstFrame (pre ++ encodeReadRequest slave reg ++ post) (pre.length, pre.length + 8) :=
      ⟨⟨Nat.add_le_add_left (Nat.le_succ 7) _, by simp [Config.reqLen]⟩,
        by rw [hslice, verify_encodeReadRequest], h⟩
    rw [extractFrame_of_first hw, cutAt, hslice, List.drop_left' (by simp [Config.reqLen])]
  · have hseven := (requestsVerifyAndDiffer.1 slave reg).2.2
    exact extractFrame_of_length_eight rfl (verify_encodeReadRequest slave reg) (mt hseven.1 hhi)
  · have hseven := (requestsVerifyAndDiffer.1 slave reg).2.2
    have hdrop : (encodeReadRequest slave reg).drop 7 = [crcHi (crc16 (requestBody slave reg))] := rfl
    rw [extractFrame_of_take_seven (by rw [encodeReadRequest_length]; decide) (hseven.2 hhi), hdrop, hhi]

/-! ### The length-major order (R151) -/

/-- Settles O41: the 15 bytes of the example, scanned in both orders. -/
theorem scanOrdersDiffer : Obligations.ScanOrdersDiffer := by
  unfold Obligations.ScanOrdersDiffer
  decide +kernel

theorem mem_windowsLengthMajor_iff (len : Nat) (w : Nat × Nat) : w ∈ windowsLengthMajor len ↔ IsWindow len w := by
  obtain ⟨s, e⟩ := w
  simp only [windowsLengthMajor, List.mem_flatMap, List.mem_map, List.mem_range, Prod.mk.injEq, IsWindow,
    Config.minFrame]
  constructor
  · rintro ⟨k, hk, s, hs, rfl, rfl⟩
    omega
  · rintro ⟨hmin, hmax⟩
    exact ⟨e - (s + 7), by omega, s, by omega, rfl, by omega⟩

/-- Settles O42: the one window that verifies is the first in any order; the two orders run over the same windows. -/
theorem scanOrdersAgreeOnOneWindow : Obligations.ScanOrdersAgreeOnOneWindow := by
  intro bs hone
  have hmem := mem_windowsLengthMajor_iff bs.length
  rw [extractLengthMajor]
  rcases scan_cases bs (windowsLengthMajor bs.length) with ⟨pre, w, post, hws, -, hpass, hscan⟩ | ⟨hall, hscan⟩
  · have hwin : IsWindow bs.length w := (hmem w).1 (by simp [hws])
    have hver := passes_iff.1 hpass
    have hw : IsFirstFrame bs w := ⟨hwin, hver, fun x hx hbefore hx' =>
      not_before_self w (hone x w hx hwin hx' hver ▸ hbefore)⟩
    rw [hscan, extractFrame_of_first hw]
    rfl
  · rcases extractFrame_cases bs with ⟨w, hw, -⟩ | ⟨-, heq⟩
    · exact absurd hw.verifies (verify_ne_of_passes_eq_false (hall w ((hmem w).2 hw.window)))
    · rw [hscan, heq]
      rfl

/-! ### A response alone in RX (R144, 44_response_decode.md R161) -/

theorem Block.fByte_of_frame {b : Block} {bs : List Byte} (h : b.frame = bs) {i : Nat} (hi : i < bs.length) :
    b.fByte i = bs[i] := by
  subst h
  simp [Block.frame]

theorem toNat_joinBytes (hi lo : Byte) : (joinBytes hi lo).toNat = hi.toNat * 256 + lo.toNat :=
  toNat_append_eq_add hi lo

/-- The 32-bit extension of a 16-bit value is its number, signed when asked (44_response_decode.md R160, R161). -/
theorem toInt_extend32 (sgn : Bool) (r : Half) : (extend32 sgn r).toInt = signedValue sgn r.toNat := by
  have hlt := r.isLt
  cases sgn with
  | false =>
    rw [extend32, if_neg Bool.false_ne_true, signedValue, if_neg (by simp), BitVec.toInt_setWidth,
      Int.bmod_eq_of_le] <;> omega
  | true =>
    rw [extend32, if_pos rfl, BitVec.toInt_signExtend_of_le (by decide), BitVec.toInt_eq_toNat_cond, signedValue]
    simp only [true_and]
    split <;> split <;> omega

/-- DECODE of a frame with byte count 2. -/
theorem effect_decode_of_frame {b : Block} {addr func hi lo : Byte} {rest : List Byte} (sgn : Bool)
    (h : b.frame = addr :: func :: 0x02#8 :: hi :: lo :: rest) :
    effect (.decode sgn) b =
      ((b.setRsp addr func 0x02#8).setValue (joinBytes hi lo) (extend32 sgn (joinBytes hi lo))).setDok true := by
  have byte (i : Nat) := Block.fByte_of_frame h (i := i)
  rw [effect, byte 0 (by simp), byte 1 (by simp), byte 2 (by simp), byte 3 (by simp), byte 4 (by simp)]
  rfl

theorem exec_decode_of_ne_zero {s : State} (sgn : Bool) (h : s.block.flen.toNat ≠ 0) :
    exec (.decode sgn) s = .next (s.setBlock (effect (.decode sgn) s.block)) :=
  if_neg fun h0 => h (by rw [h0]; rfl)

/-- Settles O45: seven bytes that verify are extracted whole, and DECODE reads them from the frame. -/
theorem responseAloneDecodes : Obligations.ResponseAloneDecodes := by
  intro s addr func hi lo sgn hresp
  have hlen : s.block.rx.length = 7 := by rw [hresp]; rfl
  have hrx : RxInRange s.block := by
    rw [RxInRange, ← Block.rx_length, hlen]
    decide
  have htake : s.block.rx.take 7 = s.block.rx := List.take_of_length_le hlen.le
  have hver : verify (s.block.rx.take 7) = some true := by
    rw [htake, hresp, checksum, verify_append]
    simp
  have hw := isFirstFrame_zero_seven hlen.ge hver
  have hframe : (effect .extract s.block).frame = s.block.rx := by rw [effect_extract_frame hw hrx, slice_zero, htake]
  have hflen : (effect .extract s.block).flen.toNat = 7 := effect_extract_flen hw hrx
  have hdecode := effect_decode_of_frame sgn (hframe.trans hresp)
  refine ⟨_, _, exec_extract hrx, exec_decode_of_ne_zero sgn (by rw [State.setBlock_block, hflen]; decide),
    effect_extract_found hw, hframe, ?_, ?_, ?_⟩
  · rw [State.setBlock_block, effect_extract_rx hw hrx]
    exact List.drop_of_length_le hlen.le
  · rw [State.setBlock_block, effect_extract_badcnt hrx, extractFrame_of_take_seven hlen.ge hver]
  · rw [State.setBlock_block, State.setBlock_block, hdecode]
    refine ⟨rfl, rfl, congrArg some ?_⟩
    rw [← toNat_joinBytes]
    exact toInt_extend32 sgn _

end Sys2Proof.Machine

/-! PROOFS. The response decoder (44_response_decode.md): the bytes that `decode_response` reads, and the command
DECODE. -/

namespace Sys2Proof.Machine

/-! ### `decode_response` (R160) -/

theorem byteCountOk_iff (bc : Byte) : byteCountOk bc = true ↔ bc = 0x02#8 := beq_iff_eq

@[simp] theorem signedValue_false (raw : Nat) : signedValue false raw = raw := if_neg (by simp)

theorem signedValue_true_of_lt {raw : Nat} (h : raw < 32768) : signedValue true raw = raw := if_neg (by omega)

theorem signedValue_true_of_le {raw : Nat} (h : 32768 ≤ raw) : signedValue true raw = raw - 65536 := if_pos ⟨rfl, h⟩

section Response
variable {addr func hi lo : Byte} {rest : List Byte} {sgn : Bool}

theorem decodeResponse_of_two :
    decodeResponse (addr :: func :: 0x02#8 :: hi :: lo :: rest) sgn =
      some (signedValue sgn (hi.toNat * 256 + lo.toNat)) := rfl

theorem decodeResponse_of_ne_two {bc : Byte} (h : bc ≠ 0x02#8) :
    decodeResponse (addr :: func :: bc :: hi :: lo :: rest) sgn = none :=
  if_neg (mt (byteCountOk_iff bc).1 h)

end Response

/-- Settles O43: the byte count decides whether there is a value, and bit 15 of the raw value whether the signed reading
subtracts 65536. -/
theorem decodeResponseReadsTwoBytes : Obligations.DecodeResponseReadsTwoBytes := by
  intro a f bc hi lo rest sgn _
  have hbc : bc = 0x02#8 ↔ bc.toNat = 2 := BitVec.toNat_inj.symm
  have hhi := hi.isLt
  have hlo := lo.isLt
  refine ⟨fun h => decodeResponse_of_ne_two (mt hbc.1 h), fun h => ?_⟩
  obtain rfl := hbc.2 h
  refine ⟨_, decodeResponse_of_two, ?_, ?_⟩
  · rintro rfl
    rw [signedValue_false]
    omega
  · rintro rfl
    rcases Nat.lt_or_ge (hi.toNat * 256 + lo.toNat) 32768 with hlt | hge
    · rw [signedValue_true_of_lt hlt]
      omega
    · rw [signedValue_true_of_le hge]
      omega

/-! ### DECODE (R161) -/

/-- A word of format S is its opcode's word plus the flag. -/
theorem wordS_eq_add (op : Byte) (s : Bool) : wordS op s = wordN op + (BitVec.ofBool s).setWidth 32 := by
  apply BitVec.eq_of_toNat_eq
  rw [toNat_wordS, BitVec.toNat_add, toNat_wordN, BitVec.toNat_setWidth, BitVec.toNat_ofBool]
  have := s.toNat_lt
  omega

/-- A reserved bit set in a word of format S: the fourth clause of R74. -/
theorem formatSFaults : FormatSFaults 0x0A := by
  intro w s hop hres
  exact (illegalWordsRaiseIllcmd w).2.1 s ((exists_decode_eq_error_iff w).2 (.inr (.inr (.inr ⟨hop, hres⟩))))

theorem exec_decode_of_zero {s : State} (sgn : Bool) (h : s.block.flen.toNat = 0) :
    exec (.decode sgn) s = raise s .noframe :=
  if_pos (BitVec.eq_of_toNat_eq h)

theorem toNat_extend32_false (r : Half) : (extend32 false r).toNat = r.toNat := by
  rw [extend32, if_neg Bool.false_ne_true, BitVec.toNat_setWidth_of_le (by decide)]

theorem toInt_extend32_true (r : Half) : (extend32 true r).toInt = r.toInt := by
  rw [extend32, if_pos rfl, BitVec.toInt_signExtend_of_le (by decide)]

/-- A frame of five bytes or more starts with the five bytes that DECODE reads. -/
theorem Block.exists_frame_eq {b : Block} (h : 5 ≤ b.flen.toNat) :
    ∃ rest, b.frame = b.fByte 0 :: b.fByte 1 :: b.fByte 2 :: b.fByte 3 :: b.fByte 4 :: rest := by
  obtain ⟨n, hn⟩ := Nat.exists_eq_add_of_le h
  rw [Block.frame, hn, List.range_add, List.map_append]
  exact ⟨_, rfl⟩

section Decode
variable {b : Block} (sgn : Bool)

theorem effect_decode_of_two (h : b.fByte 2 = 0x02#8) :
    effect (.decode sgn) b =
      ((b.setRsp (b.fByte 0) (b.fByte 1) (b.fByte 2)).setValue (joinBytes (b.fByte 3) (b.fByte 4))
        (extend32 sgn (joinBytes (b.fByte 3) (b.fByte 4)))).setDok true :=
  if_pos ((byteCountOk_iff _).2 h)

theorem effect_decode_of_ne_two (h : b.fByte 2 ≠ 0x02#8) :
    effect (.decode sgn) b = (b.setRsp (b.fByte 0) (b.fByte 1) (b.fByte 2)).setDok false :=
  if_neg (mt (byteCountOk_iff _).1 h)

/-- The header registers are loaded whatever the byte count is. -/
theorem effect_decode_rsp :
    (effect (.decode sgn) b).rspAddr = b.fByte 0 ∧ (effect (.decode sgn) b).rspFunc = b.fByte 1 ∧
      (effect (.decode sgn) b).rspBc = b.fByte 2 := by
  by_cases h : b.fByte 2 = 0x02#8
  · rw [effect_decode_of_two sgn h]
    exact ⟨rfl, rfl, rfl⟩
  · rw [effect_decode_of_ne_two sgn h]
    exact ⟨rfl, rfl, rfl⟩

/-- The registers show the result of `decode_response` (R160, R164). -/
theorem resultOf_effect_decode (h : 5 ≤ b.flen.toNat) :
    resultOf (effect (.decode sgn) b) = decodeResponse b.frame sgn := by
  obtain ⟨rest, hframe⟩ := Block.exists_frame_eq h
  by_cases h2 : b.fByte 2 = 0x02#8
  · rw [hframe, h2, decodeResponse_of_two, effect_decode_of_two sgn h2, ← toNat_joinBytes]
    exact congrArg some (toInt_extend32 sgn _)
  · rw [hframe, decodeResponse_of_ne_two h2, effect_decode_of_ne_two sgn h2]
    rfl

end Decode

/-- Settles O44: the byte count decides which registers are written; the result read back is that of R160. -/
theorem decodeLoadsResponseRegisters : Obligations.DecodeLoadsResponseRegisters := by
  refine ⟨fun sgn => decode_eq_ok_iff.2 (wordS_eq_add 0x0A#8 sgn), fun s sgn h => ?_, fun s sgn h => ?_, formatSFaults⟩
  · rw [exec_decode_of_zero sgn h]
    exact recordsFault_raise s .noframe
  · obtain ⟨haddr, hfunc, hbc⟩ := effect_decode_rsp (b := s.block) sgn
    refine ⟨_, exec_decode_of_ne_zero sgn h, haddr, hfunc, hbc, fun hne => ?_, fun h2 => ?_,
      fun h7 => resultOf_effect_decode sgn (Nat.le_trans (Nat.le_add_right 5 2) h7),
      (sameExcept_afterDecode _ _ _ _ _ _ _).mono (by decide), rfl⟩
    · rw [State.setBlock_block, effect_decode_of_ne_two sgn hne]
      exact ⟨rfl, (sameExcept_setRsp _ _ _ _).append (sameExcept_setDok _ _)⟩
    · rw [State.setBlock_block, effect_decode_of_two sgn h2]
      refine ⟨rfl, toNat_joinBytes _ _, ?_, ?_⟩
      · rintro rfl
        exact toNat_extend32_false _
      · rintro rfl
        exact toInt_extend32_true _

end Sys2Proof.Machine

/-! PROOFS. The command set as a whole (45_system.md): ERRCLR, that every command answers, and what a step stops on. -/

namespace Sys2Proof.Machine

/-! ### ERRCLR (R170) -/

theorem exec_errclr (s : State) : exec .errclr s = .next (s.setBlock (s.block.setErr 0#4)) := rfl

@[simp] theorem Block.setErr_self (b : Block) : b.setErr b.err = b := rfl

theorem errAfter_of_eq_zero {e : BitVec 4} (k : BitVec 4) (h : e = 0#4) : errAfter e k = k := if_pos h

theorem errAfter_of_ne_zero {e : BitVec 4} (k : BitVec 4) (h : e ≠ 0#4) : errAfter e k = e := if_neg h

/-- Settles O46: ERRCLR writes 0 to ERR alone; with a reserved bit set the word is illegal and takes the fault ILLCMD,
which writes ERR only when it is 0. -/
theorem errclrClearsErr : Obligations.ErrclrClearsErr := by
  have hfaults : FormatNFaults 0x0B := formatNFaults (by decide)
  refine ⟨decode_eq_ok_iff.2 rfl, fun s => ?_, hfaults, fun w s t hop hres ht => ?_⟩
  · refine ⟨_, exec_errclr s, rfl, sameExcept_setErr _ _, rfl, fun hzero => ?_⟩
    rw [State.setBlock_block, ← hzero, Block.setErr_self]
    exact SameExcept.refl _ _
  · obtain ⟨u, hu, herr, -, -⟩ := hfaults w s hop hres
    obtain rfl : u = t := Host.Outcome.next.inj (hu.symm.trans ht)
    rw [herr]
    exact ⟨errAfter_of_ne_zero _, errAfter_of_eq_zero _⟩

/-! ### Every command answers (R171, R215) -/

/-- A command's fault is a next state too. -/
theorem exists_exec_eq_next (i : Instr) {s : State} (h : RxInRange s.block) : ∃ t, exec i s = .next t := by
  rw [exec_of_inRange i h]
  cases faultOf i s.block with
  | none => exact ⟨_, rfl⟩
  | some f => exact ⟨_, rfl⟩

/-- Settles O50: a command raises its fault or has its effect, and both are next states. -/
theorem everyCommandAnswers : Obligations.EveryCommandAnswers :=
  ⟨fun i _ h => exists_exec_eq_next i h, exec_not_refused⟩

/-! ### What a step stops on (R174) -/

theorem exists_issue_eq_next {s : State} (w : Word) (h : RxInRange s.block) : ∃ t, issue s w = .next t := by
  cases hw : decode w with
  | ok i =>
    rw [issue_of_decode_ok s hw]
    exact exists_exec_eq_next i h
  | error e => exact ⟨_, issue_of_decode_error s hw⟩

theorem exists_writeReg_eq_next {s : State} (r : Option MapReg) (w : Word) (h : RxInRange s.block) :
    ∃ t, writeReg s r w = .next t := by
  by_cases hcmd : r = some .cmd
  · rw [hcmd]
    exact exists_issue_eq_next w h
  · by_cases hidx : r = some .bufidxr
    · rw [hidx]
      exact ⟨_, rfl⟩
    · exact ⟨s, writeReg_of_ne s w hcmd hidx⟩

/-- A read window whose length is within its memory reaches no index outside it. -/
theorem exists_windowWord_eq_ok {sp : Space} {len : Len} (m : Memory) (idx : Len) (free : Byte)
    (hsize : len.toNat ≤ sp.size) : ∃ w, windowWord sp m len idx free = .ok w := by
  rcases Nat.lt_or_ge idx.toNat len.toNat with hlt | hle
  · exact ⟨_, windowWord_of_lt hlt hsize⟩
  · exact ⟨_, windowWord_of_le hle⟩

theorem Inv.flen_le {b : Block} (h : Inv b) : b.flen.toNat ≤ Config.rxCap :=
  Nat.le_trans (Nat.le_add_left _ _) h.fstart_le

/-- Only the two read windows reach a memory by an index that may not exist. -/
theorem exists_regWord_eq_ok {b : Block} (h : Inv b) (free : Byte) (r : MapReg) : ∃ w, regWord b free r = .ok w := by
  cases r with
  | rxdata => exact exists_windowWord_eq_ok (sp := .rx) _ _ _ h.rx_le
  | fdata => exact exists_windowWord_eq_ok (sp := .f) _ _ _ h.flen_le
  | _ => exact ⟨_, rfl⟩

theorem exists_readReg_eq_next {s : State} (h : Inv s.block) (r : MapReg) : ∃ t, readReg s r = .next t := by
  obtain ⟨w, hw⟩ := exists_regWord_eq_ok h (Config.freeByte s.host.draws) r
  rw [readReg, hw]
  exact ⟨_, rfl⟩

theorem perform_read_of_regAt_none {off : Nat} (s : State) (hacc : accessProblem off 4 = none)
    (hreg : regAt off = none) : perform (.read off 4) s = readNone s := by
  simp [perform, hacc, hreg]

theorem exists_perform_read_eq_next {s : State} (h : Inv s.block) {off : Nat} (hacc : accessProblem off 4 = none) :
    ∃ t, perform (.read off 4) s = .next t := by
  cases hreg : regAt off with
  | some r =>
    rw [perform_read_of_regAt s hacc hreg]
    exact exists_readReg_eq_next h r
  | none => exact ⟨_, perform_read_of_regAt_none s hacc hreg⟩

theorem exists_perform_write_eq_next {s : State} (h : Inv s.block) {off : Nat} (w : Word)
    (hacc : accessProblem off 4 = none) : ∃ t, perform (.write off 4 w) s = .next t := by
  rw [perform_write_of_accessProblem s w hacc]
  exact exists_writeReg_eq_next _ w h.rx_le

/-- The action is a bus access that is no aligned word of the map (20_memory.md R55, R58; log 11). -/
def UndefinedAccess (a : HostAction) : Prop :=
  ∃ off size, (a = .read off size ∨ ∃ w, a = .write off size w) ∧ ¬ (size = 4 ∧ off % 4 = 0 ∧ off < Config.mapSpan)

/-- From the invariant, every action but an undefined access is answered. -/
theorem exists_perform_eq_next {s : State} (h : Inv s.block) {a : HostAction} (ha : ¬ UndefinedAccess a) :
    ∃ t, perform a s = .next t := by
  cases a with
  | reset => exact ⟨_, rfl⟩
  | read off size =>
    obtain ⟨rfl, hal, hlt⟩ := not_not.1 fun hundef => ha ⟨off, size, .inl rfl, hundef⟩
    exact exists_perform_read_eq_next h (accessProblem_eq_none hal hlt)
  | write off size w =>
    obtain ⟨rfl, hal, hlt⟩ := not_not.1 fun hundef => ha ⟨off, size, .inr ⟨w, rfl⟩, hundef⟩
    exact exists_perform_write_eq_next h w (accessProblem_eq_none hal hlt)

/-- In every state, an undefined access is refused. -/
theorem exists_perform_eq_refused (s : State) {a : HostAction} (ha : UndefinedAccess a) :
    ∃ r, perform a s = .refused r := by
  obtain ⟨off, size, rfl | ⟨w, rfl⟩, hundef⟩ := ha
  · exact (undefinedAccessesRefused s off size 0#32 hundef).1
  · exact (undefinedAccessesRefused s off size w hundef).2

/-- The host's oldest action is an undefined access. -/
def UndefinedAccessPending (s : State) : Prop := ∃ a as, s.host.pending = a :: as ∧ UndefinedAccess a

theorem undefinedAccessPending_iff (s : State) :
    UndefinedAccessPending s ↔
      ∃ off size as, (s.host.pending = .read off size :: as ∨ ∃ w, s.host.pending = .write off size w :: as) ∧
        ¬ (size = 4 ∧ off % 4 = 0 ∧ off < 0x58) := by
  constructor
  · rintro ⟨a, as, hpend, off, size, rfl | ⟨w, rfl⟩, hundef⟩
    · exact ⟨off, size, as, .inl hpend, hundef⟩
    · exact ⟨off, size, as, .inr ⟨w, hpend⟩, hundef⟩
  · rintro ⟨off, size, as, hpend | ⟨w, hpend⟩, hundef⟩
    · exact ⟨_, as, hpend, off, size, .inl rfl, hundef⟩
    · exact ⟨_, as, hpend, off, size, .inr ⟨w, rfl⟩, hundef⟩

theorem exists_step_eq_next {s : State} (h : Inv s.block) (hdef : ¬ UndefinedAccessPending s) :
    ∃ t, step s = .next t := by
  rcases step_cases s with ⟨-, hstep⟩ | ⟨a, as, hpend, hstep⟩
  · exact ⟨s, hstep⟩
  · rw [hstep]
    exact exists_perform_eq_next (s := s.setHost (s.host.rest as)) h fun ha => hdef ⟨a, as, hpend, ha⟩

theorem exists_step_eq_refused {s : State} (hundef : UndefinedAccessPending s) : ∃ r, step s = .refused r := by
  obtain ⟨a, as, hpend, ha⟩ := hundef
  rw [step_of_pending hpend]
  exact exists_perform_eq_refused _ ha

/-- Settles O54: an undefined access is refused, and whatever else is pending is answered. -/
theorem stepStopsOnlyOnUndefinedAccess : Obligations.StepStopsOnlyOnUndefinedAccess := by
  intro s h
  rw [← undefinedAccessPending_iff]
  by_cases hundef : UndefinedAccessPending s
  · obtain ⟨r, hr⟩ := exists_step_eq_refused hundef
    exact ⟨by simp [hr], iff_of_true ⟨r, hr⟩ hundef⟩
  · obtain ⟨t, ht⟩ := exists_step_eq_next h hundef
    exact ⟨by simp [ht], iff_of_false (by simp [ht]) hundef⟩

end Sys2Proof.Machine

/-! PROOFS. Faults (60_exceptions.md): which fault a command takes, what ERR records of it, and that a recorded fault
blocks nothing. -/

namespace Sys2Proof.Machine

/-! ### Fault codes, priority and entry (R181, R182, R190) -/

/-- The faults of the legal commands, read both ways (60_exceptions.md R181). -/
theorem faultOf_eq_some_iff {i : Instr} {b : Block} {k : FaultCode} :
    faultOf i b = some k ↔
      (∃ x, i = .rxpush x ∧ b.rxlen.toNat = Config.rxCap ∧ k = .rxovf) ∨
      (i = .verify ∧ b.rxlen.toNat < 2 ∧ k = .short) ∨
      (∃ sgn, i = .decode sgn ∧ b.flen.toNat = 0 ∧ k = .noframe) := by
  cases i <;> simp [faultOf, eq_comm]

/-- A command whose fault is due takes it, in every state. -/
theorem exec_of_faultOf_eq_some {i : Instr} {s : State} {k : FaultCode} (h : faultOf i s.block = some k) :
    exec i s = raise s k := by
  rcases faultOf_eq_some_iff.1 h with ⟨x, rfl, hfull, rfl⟩ | ⟨rfl, hshort, rfl⟩ | ⟨sgn, rfl, hnone, rfl⟩
  · exact exec_rxpush_of_full x hfull
  · exact exec_verify_of_lt hshort
  · exact exec_decode_of_zero sgn hnone

/-- A command that does not fault leaves ERR alone, but for ERRCLR (10_state.md R20). -/
theorem effect_err_of_ne_errclr {i : Instr} (hi : i ≠ .errclr) (b : Block) : (effect i b).err = b.err :=
  effect_same_of_not_writtenBy i b (f := .err) (by cases i <;> simp_all [mnemonicOf, writtenBy])

/-- ERR changes only from 0, and then to the code (60_exceptions.md R190). -/
theorem errAfter_ne_self {e k : BitVec 4} (h : errAfter e k ≠ e) : e = 0#4 ∧ errAfter e k = k := by
  have he : e = 0#4 := not_not.1 fun hne => h (errAfter_of_ne_zero k hne)
  exact ⟨he, errAfter_of_eq_zero k he⟩

/-- A command other than ERRCLR changes ERR by taking its fault, from 0. -/
theorem exec_err_ne {i : Instr} {s t : State} (h : exec i s = .next t) (hi : i ≠ .errclr)
    (hne : t.block.err ≠ s.block.err) :
    s.block.err = 0#4 ∧ ∃ k, faultOf i s.block = some k ∧ t.block.err = k.code := by
  rcases exec_next_cases h with ⟨k, hk, rfl⟩ | ⟨-, rfl⟩
  · rw [enterFault_block, Block.setErr_err] at hne ⊢
    obtain ⟨hzero, hcode⟩ := errAfter_ne_self hne
    exact ⟨hzero, k, hk, hcode⟩
  · exact absurd (effect_err_of_ne_errclr hi s.block) hne

/-- Settles O47: a fault is entered by `raise`, and each command has one cause for it. -/
theorem faultsRecordTheFirstCode : Obligations.FaultsRecordTheFirstCode := by
  refine ⟨⟨rfl, rfl, rfl, rfl⟩, fun e k => ⟨errAfter_of_eq_zero k, errAfter_of_ne_zero k⟩,
    fun s w => (illegalWordsRaiseIllcmd w).2.1 s, fun s w i => issue_of_decode_ok s, fun i s k hk => ?_,
    fun i s t hexec hi hne => ?_⟩
  · rw [exec_of_faultOf_eq_some hk]
    exact recordsFault_raise s k
  · obtain ⟨hzero, k, hk, hcode⟩ := exec_err_ne hexec hi hne
    refine ⟨hzero, ?_⟩
    rw [hcode]
    rcases faultOf_eq_some_iff.1 hk with ⟨x, hx, hfull, rfl⟩ | ⟨hv, hshort, rfl⟩ | ⟨sgn, hd, hnone, rfl⟩
    · exact .inl ⟨x, hx, hfull, rfl⟩
    · exact .inr (.inl ⟨hv, hshort, rfl⟩)
    · exact .inr (.inr ⟨sgn, hd, hnone, rfl⟩)

/-! ### A recorded fault blocks nothing (R180, R191) -/

/-- What the first outcome answers, the second answers too, with the same in every field but ERR and on the host's
side. -/
def AgreesButErr (o o' : Host.Outcome State Fault Refusal) : Prop :=
  ∀ t, o = .next t → ∃ u, o' = .next u ∧ SameExcept [.err] t.block u.block ∧ u.host = t.host

theorem agreesButErr_next {t u : State} (hblock : SameExcept [.err] t.block u.block) (hhost : u.host = t.host) :
    AgreesButErr (.next t) (.next u) := by
  rintro _ ⟨⟩
  exact ⟨u, rfl, hblock, hhost⟩

theorem AgreesButErr.ite {p : Prop} [Decidable p] {o o' q q' : Host.Outcome State Fault Refusal}
    (h : AgreesButErr o o') (h' : AgreesButErr q q') : AgreesButErr (if p then o else q) (if p then o' else q') := by
  by_cases hp : p
  · simpa [hp] using h
  · simpa [hp] using h'

/-- The two sides go on from the same access. -/
theorem AgreesButErr.access {α : Type} (x : Except Fault α) {k l : α → Host.Outcome State Fault Refusal}
    (h : ∀ a, AgreesButErr (k a) (l a)) : AgreesButErr (access x k) (access x l) := by
  cases x with
  | ok a => exact h a
  | error f => nofun

section AnyErr
variable (s : State) (e : BitVec 4)

/-- The same update, whatever ERR holds. -/
theorem agreesButErr_setBlock (b : Block) :
    AgreesButErr (.next (s.setBlock b)) (.next ((s.setBlock (s.block.setErr e)).setBlock (b.setErr e))) :=
  agreesButErr_next (sameExcept_setErr b e) rfl

/-- A fault writes ERR alone, whatever ERR holds. -/
theorem agreesButErr_raise (f : FaultCode) : AgreesButErr (raise s f) (raise (s.setBlock (s.block.setErr e)) f) := by
  refine agreesButErr_next ?_ (by simp)
  rw [enterFault_block, enterFault_block]
  exact sameExcept_setErr (s.block.setErr _) _

theorem afterScan_setErr (b : Block) (r : Option Extraction × Nat) :
    afterScan (b.setErr e) r = (afterScan b r).setErr e := by
  cases hr : r.1 with
  | none =>
    rw [afterScan_of_none _ hr, afterScan_of_none b hr]
    rfl
  | some x =>
    rw [afterScan_of_some _ hr, afterScan_of_some b hr]
    rfl

theorem afterDecode_setErr (b : Block) (sgn : Bool) (addr func bc hi lo : Byte) :
    afterDecode (b.setErr e) sgn addr func bc hi lo = (afterDecode b sgn addr func bc hi lo).setErr e := by
  unfold afterDecode
  split
  · rfl
  · rfl

/-- ERR decides no branch of a command and enters no value that it stores. -/
theorem exec_agreesButErr (i : Instr) : AgreesButErr (exec i s) (exec i (s.setBlock (s.block.setErr e))) := by
  cases i with
  | crcinit | crcupd | rxclr | encode => exact agreesButErr_setBlock s e _
  | crcbuf => exact .access _ fun _ => agreesButErr_setBlock s e _
  | verify => exact .ite (agreesButErr_raise s e .short) (.access _ fun _ => agreesButErr_setBlock s e _)
  | validate => exact .ite (agreesButErr_setBlock s e _) (.access _ fun _ => agreesButErr_setBlock s e _)
  | rxpush x => exact .ite (agreesButErr_raise s e .rxovf) (.access _ fun _ => agreesButErr_setBlock s e _)
  | extract =>
    refine .access _ fun bs => ?_
    rw [State.setBlock_block, afterScan_setErr]
    exact agreesButErr_setBlock s e _
  | decode sgn =>
    refine .ite (agreesButErr_raise s e .noframe) ?_
    rw [State.setBlock_block, afterDecode_setErr]
    exact agreesButErr_setBlock s e _
  | errclr => exact agreesButErr_next (SameExcept.refl _ _) rfl

end AnyErr

/-- Settles O48, command by command: the two runs take the same branches and make the same accesses. -/
theorem recordedFaultBlocksNothing : Obligations.RecordedFaultBlocksNothing :=
  fun i s t e => exec_agreesButErr s e i t

end Sys2Proof.Machine

/-! PROOFS. Reset and hazards (70_reset_and_hazards.md): the scan with a running CRC per start (R216). -/

namespace Sys2Proof.Machine

/-! ### A window one byte longer -/

theorem slice_succ_getD {bs : List Byte} {a b : Nat} (hab : a ≤ b) (h : b < bs.length) :
    slice bs a (b + 1) = slice bs a b ++ [bs.getD b 0#8] := by
  rw [slice_succ hab h, List.getD_eq_getElem _ _ h]

/-- One `crc_byte` extends the CRC of a slice by the byte after it (70_reset_and_hazards.md R216). -/
theorem crcByte_crc16_slice {bs : List Byte} {a b : Nat} (hab : a ≤ b) (h : b < bs.length) :
    crcByte (crc16 (slice bs a b)) (bs.getD b 0#8) = crc16 (slice bs a (b + 1)) := by
  rw [slice_succ_getD hab h, crc16_append, crcFrom_cons, crcFrom_nil]

/-- A window passes when its last two bytes are the CRC of the slice before them (40_crc_engine.md R104). -/
theorem passes_slice_iff {bs : List Byte} {a b : Nat} (hab : a ≤ b) (h : b + 1 < bs.length) :
    passes (slice bs a (b + 2)) = true ↔
      bs.getD b 0#8 = crcLo (crc16 (slice bs a b)) ∧ bs.getD (b + 1) 0#8 = crcHi (crc16 (slice bs a b)) := by
  rw [passes_iff, slice_succ_getD (Nat.le_succ_of_le hab) h, slice_succ_getD hab (Nat.lt_of_succ_lt h),
    List.append_assoc, List.singleton_append, verify_append, Option.some_inj, Bool.and_eq_true, beq_iff_eq, beq_iff_eq]

/-! ### The running-CRC loops are the loops of P143 -/

/-- Where the accumulator holds the CRC of the bytes from the start to three before the first end, the ends of one start
go as in block P143. -/
theorem runningEnds_eq_endLoop (bs : List Byte) {s k : Nat} (n bad : Nat) (hs : s ≤ k) (hn : n ≤ bs.length - (k + 2)) :
    runningEnds bs s (List.range' (k + 3) n) (crc16 (slice bs s k)) bad =
      endLoop bs s (List.range' (k + 3) n) bad := by
  induction n generalizing k bad with
  | zero => rfl
  | succ n ih =>
    have hstep : crcByte (crc16 (slice bs s k)) (bs.getD k 0#8) = crc16 (slice bs s (k + 1)) :=
      crcByte_crc16_slice hs (by omega)
    have htest := passes_slice_iff (bs := bs) (Nat.le_succ_of_le hs) (show k + 1 + 1 < bs.length by omega)
    have hrest := ih (bad + 1) (Nat.le_succ_of_le hs) (show n ≤ bs.length - (k + 1 + 2) by omega)
    rw [List.range'_succ, runningEnds, endLoop, Nat.add_sub_cancel, hstep, ← hrest]
    exact if_congr htest.symm rfl rfl

/-- Each start begins with the CRC of its first four bytes. -/
theorem runningStarts_eq_startLoop (bs : List Byte) (ss : List Nat) (bad : Nat) :
    runningStarts bs ss bad = startLoop bs ss bad := by
  induction ss generalizing bad with
  | nil => rfl
  | cons s ss ih =>
    have hends : runningEnds bs s (List.range' (s + Config.minFrame) (bs.length + 1 - (s + Config.minFrame)))
          (crc16 (slice bs s (s + 4))) bad =
        endLoop bs s (List.range' (s + Config.minFrame) (bs.length + 1 - (s + Config.minFrame))) bad :=
      runningEnds_eq_endLoop bs _ bad (Nat.le_add_right s 4) (by rw [Config.minFrame]; omega)
    rw [runningStarts, startLoop, hends]
    rcases endLoop bs s _ bad with ⟨_ | w, n⟩
    · exact ih n
    · rfl

/-- Settles O35: through the nested loops, whose starts are those of the ordered list. -/
theorem runningCrcScanEqualsScan : Obligations.RunningCrcScanEqualsScan := by
  intro bs
  rw [runningScan, runningStarts_eq_startLoop, startLoop_eq_scan, windows_eq_flatMap_windowRow, Nat.add_zero]

end Sys2Proof.Machine
